-- ==== Sys2Proof/Word.lean ====
section
/-! DEFINITION. The widths of the hardware's values (00_scope R5): byte, word, longword, and the
number of a general register. -/

namespace Sys2Proof

/-- A longword: every CPU register and every address is 32 bits wide (R5). -/
abbrev Word := BitVec 32

/-- A 16-bit word: an opcode, an INTC register (R5, R438). -/
abbrev Half := BitVec 16

/-- The addressable unit (R44). -/
abbrev Byte := BitVec 8

/-- Four bits of an opcode: a register field or a displacement (R111, R112). -/
abbrev Nibble := BitVec 4

/-- The number of a general register; all sixteen values are legal (R20, R112). -/
abbrev Reg := Fin 16

end Sys2Proof
end

