-- ==== Sys2Proof/Syntax.lean ====
section
/-! DEFINITION. The 142 instruction forms (30_encoding R120), one constructor for each row of the opcode table.
An operand has exactly the width of its field (R111, R112): `m` is the source register, `n` the destination (or base)
register, `imm` an immediate, `disp` a displacement as the opcode holds it, before scaling (R115). -/

namespace Sys2Proof

/-- An SH-2 instruction form (R120). -/
inductive Instr where
  /-- `MOV #imm,Rn` (R141). -/
  | movImm (n : Reg) (imm : Byte)
  /-- `MOV.W @(disp,PC),Rn` (R142). -/
  | movWLoadPc (n : Reg) (disp : Byte)
  /-- `MOV.L @(disp,PC),Rn` (R143). -/
  | movLLoadPc (n : Reg) (disp : Byte)
  /-- `MOV Rm,Rn` (R144). -/
  | movReg (m : Reg) (n : Reg)
  /-- `MOV.B Rm,@Rn` (R145). -/
  | movBStore (m : Reg) (n : Reg)
  /-- `MOV.W Rm,@Rn` (R146). -/
  | movWStore (m : Reg) (n : Reg)
  /-- `MOV.L Rm,@Rn` (R147). -/
  | movLStore (m : Reg) (n : Reg)
  /-- `MOV.B @Rm,Rn` (R148). -/
  | movBLoad (m : Reg) (n : Reg)
  /-- `MOV.W @Rm,Rn` (R149). -/
  | movWLoad (m : Reg) (n : Reg)
  /-- `MOV.L @Rm,Rn` (R150). -/
  | movLLoad (m : Reg) (n : Reg)
  /-- `MOV.B Rm,@-Rn` (R151). -/
  | movBStoreDec (m : Reg) (n : Reg)
  /-- `MOV.W Rm,@-Rn` (R152). -/
  | movWStoreDec (m : Reg) (n : Reg)
  /-- `MOV.L Rm,@-Rn` (R153). -/
  | movLStoreDec (m : Reg) (n : Reg)
  /-- `MOV.B @Rm+,Rn` (R154). -/
  | movBLoadInc (m : Reg) (n : Reg)
  /-- `MOV.W @Rm+,Rn` (R155). -/
  | movWLoadInc (m : Reg) (n : Reg)
  /-- `MOV.L @Rm+,Rn` (R156). -/
  | movLLoadInc (m : Reg) (n : Reg)
  /-- `MOV.B R0,@(disp,Rn)` (R157). -/
  | movBStoreDisp (n : Reg) (disp : Nibble)
  /-- `MOV.W R0,@(disp,Rn)` (R158). -/
  | movWStoreDisp (n : Reg) (disp : Nibble)
  /-- `MOV.L Rm,@(disp,Rn)` (R159). -/
  | movLStoreDisp (m : Reg) (n : Reg) (disp : Nibble)
  /-- `MOV.B @(disp,Rm),R0` (R160). -/
  | movBLoadDisp (m : Reg) (disp : Nibble)
  /-- `MOV.W @(disp,Rm),R0` (R161). -/
  | movWLoadDisp (m : Reg) (disp : Nibble)
  /-- `MOV.L @(disp,Rm),Rn` (R162). -/
  | movLLoadDisp (m : Reg) (n : Reg) (disp : Nibble)
  /-- `MOV.B Rm,@(R0,Rn)` (R163). -/
  | movBStoreIdx (m : Reg) (n : Reg)
  /-- `MOV.W Rm,@(R0,Rn)` (R164). -/
  | movWStoreIdx (m : Reg) (n : Reg)
  /-- `MOV.L Rm,@(R0,Rn)` (R165). -/
  | movLStoreIdx (m : Reg) (n : Reg)
  /-- `MOV.B @(R0,Rm),Rn` (R166). -/
  | movBLoadIdx (m : Reg) (n : Reg)
  /-- `MOV.W @(R0,Rm),Rn` (R167). -/
  | movWLoadIdx (m : Reg) (n : Reg)
  /-- `MOV.L @(R0,Rm),Rn` (R168). -/
  | movLLoadIdx (m : Reg) (n : Reg)
  /-- `MOV.B R0,@(disp,GBR)` (R169). -/
  | movBStoreGbr (disp : Byte)
  /-- `MOV.W R0,@(disp,GBR)` (R170). -/
  | movWStoreGbr (disp : Byte)
  /-- `MOV.L R0,@(disp,GBR)` (R171). -/
  | movLStoreGbr (disp : Byte)
  /-- `MOV.B @(disp,GBR),R0` (R172). -/
  | movBLoadGbr (disp : Byte)
  /-- `MOV.W @(disp,GBR),R0` (R173). -/
  | movWLoadGbr (disp : Byte)
  /-- `MOV.L @(disp,GBR),R0` (R174). -/
  | movLLoadGbr (disp : Byte)
  /-- `MOVA @(disp,PC),R0` (R175). -/
  | mova (disp : Byte)
  /-- `MOVT Rn` (R176). -/
  | movt (n : Reg)
  /-- `SWAP.B Rm,Rn` (R177). -/
  | swapB (m : Reg) (n : Reg)
  /-- `SWAP.W Rm,Rn` (R178). -/
  | swapW (m : Reg) (n : Reg)
  /-- `XTRCT Rm,Rn` (R179). -/
  | xtrct (m : Reg) (n : Reg)
  /-- `ADD Rm,Rn` (R201). -/
  | addReg (m : Reg) (n : Reg)
  /-- `ADD #imm,Rn` (R202). -/
  | addImm (n : Reg) (imm : Byte)
  /-- `ADDC Rm,Rn` (R203). -/
  | addc (m : Reg) (n : Reg)
  /-- `ADDV Rm,Rn` (R204). -/
  | addv (m : Reg) (n : Reg)
  /-- `CMP/EQ #imm,R0` (R205). -/
  | cmpEqImm (imm : Byte)
  /-- `CMP/EQ Rm,Rn` (R206). -/
  | cmpEq (m : Reg) (n : Reg)
  /-- `CMP/HS Rm,Rn` (R207). -/
  | cmpHs (m : Reg) (n : Reg)
  /-- `CMP/GE Rm,Rn` (R208). -/
  | cmpGe (m : Reg) (n : Reg)
  /-- `CMP/HI Rm,Rn` (R209). -/
  | cmpHi (m : Reg) (n : Reg)
  /-- `CMP/GT Rm,Rn` (R210). -/
  | cmpGt (m : Reg) (n : Reg)
  /-- `CMP/PL Rn` (R211). -/
  | cmpPl (n : Reg)
  /-- `CMP/PZ Rn` (R212). -/
  | cmpPz (n : Reg)
  /-- `CMP/STR Rm,Rn` (R213). -/
  | cmpStr (m : Reg) (n : Reg)
  /-- `DIV1 Rm,Rn` (R214). -/
  | div1 (m : Reg) (n : Reg)
  /-- `DIV0S Rm,Rn` (R215). -/
  | div0s (m : Reg) (n : Reg)
  /-- `DIV0U` (R216). -/
  | div0u
  /-- `DMULS.L Rm,Rn` (R217). -/
  | dmulsL (m : Reg) (n : Reg)
  /-- `DMULU.L Rm,Rn` (R218). -/
  | dmuluL (m : Reg) (n : Reg)
  /-- `DT Rn` (R219). -/
  | dt (n : Reg)
  /-- `EXTS.B Rm,Rn` (R220). -/
  | extsB (m : Reg) (n : Reg)
  /-- `EXTS.W Rm,Rn` (R221). -/
  | extsW (m : Reg) (n : Reg)
  /-- `EXTU.B Rm,Rn` (R222). -/
  | extuB (m : Reg) (n : Reg)
  /-- `EXTU.W Rm,Rn` (R223). -/
  | extuW (m : Reg) (n : Reg)
  /-- `MAC.L @Rm+,@Rn+` (R224). -/
  | macL (m : Reg) (n : Reg)
  /-- `MAC.W @Rm+,@Rn+` (R225). -/
  | macW (m : Reg) (n : Reg)
  /-- `MUL.L Rm,Rn` (R226). -/
  | mulL (m : Reg) (n : Reg)
  /-- `MULS.W Rm,Rn` (R227). -/
  | mulsW (m : Reg) (n : Reg)
  /-- `MULU.W Rm,Rn` (R228). -/
  | muluW (m : Reg) (n : Reg)
  /-- `NEG Rm,Rn` (R229). -/
  | neg (m : Reg) (n : Reg)
  /-- `NEGC Rm,Rn` (R230). -/
  | negc (m : Reg) (n : Reg)
  /-- `SUB Rm,Rn` (R231). -/
  | sub (m : Reg) (n : Reg)
  /-- `SUBC Rm,Rn` (R232). -/
  | subc (m : Reg) (n : Reg)
  /-- `SUBV Rm,Rn` (R233). -/
  | subv (m : Reg) (n : Reg)
  /-- `AND Rm,Rn` (R251). -/
  | andReg (m : Reg) (n : Reg)
  /-- `AND #imm,R0` (R252). -/
  | andImm (imm : Byte)
  /-- `AND.B #imm,@(R0,GBR)` (R253). -/
  | andB (imm : Byte)
  /-- `NOT Rm,Rn` (R254). -/
  | notReg (m : Reg) (n : Reg)
  /-- `OR Rm,Rn` (R255). -/
  | orReg (m : Reg) (n : Reg)
  /-- `OR #imm,R0` (R256). -/
  | orImm (imm : Byte)
  /-- `OR.B #imm,@(R0,GBR)` (R257). -/
  | orB (imm : Byte)
  /-- `TAS.B @Rn` (R258). -/
  | tasB (n : Reg)
  /-- `TST Rm,Rn` (R259). -/
  | tstReg (m : Reg) (n : Reg)
  /-- `TST #imm,R0` (R260). -/
  | tstImm (imm : Byte)
  /-- `TST.B #imm,@(R0,GBR)` (R261). -/
  | tstB (imm : Byte)
  /-- `XOR Rm,Rn` (R262). -/
  | xorReg (m : Reg) (n : Reg)
  /-- `XOR #imm,R0` (R263). -/
  | xorImm (imm : Byte)
  /-- `XOR.B #imm,@(R0,GBR)` (R264). -/
  | xorB (imm : Byte)
  /-- `ROTL Rn` (R271). -/
  | rotl (n : Reg)
  /-- `ROTR Rn` (R272). -/
  | rotr (n : Reg)
  /-- `ROTCL Rn` (R273). -/
  | rotcl (n : Reg)
  /-- `ROTCR Rn` (R274). -/
  | rotcr (n : Reg)
  /-- `SHAL Rn` (R275). -/
  | shal (n : Reg)
  /-- `SHAR Rn` (R276). -/
  | shar (n : Reg)
  /-- `SHLL Rn` (R277). -/
  | shll (n : Reg)
  /-- `SHLR Rn` (R278). -/
  | shlr (n : Reg)
  /-- `SHLL2 Rn` (R279). -/
  | shll2 (n : Reg)
  /-- `SHLR2 Rn` (R280). -/
  | shlr2 (n : Reg)
  /-- `SHLL8 Rn` (R281). -/
  | shll8 (n : Reg)
  /-- `SHLR8 Rn` (R282). -/
  | shlr8 (n : Reg)
  /-- `SHLL16 Rn` (R283). -/
  | shll16 (n : Reg)
  /-- `SHLR16 Rn` (R284). -/
  | shlr16 (n : Reg)
  /-- `BF label` (R295). -/
  | bf (disp : Byte)
  /-- `BF/S label` (R296). -/
  | bfs (disp : Byte)
  /-- `BT label` (R297). -/
  | bt (disp : Byte)
  /-- `BT/S label` (R298). -/
  | bts (disp : Byte)
  /-- `BRA label` (R299). -/
  | bra (disp : BitVec 12)
  /-- `BRAF Rm` (R300). -/
  | braf (m : Reg)
  /-- `BSR label` (R301). -/
  | bsr (disp : BitVec 12)
  /-- `BSRF Rm` (R302). -/
  | bsrf (m : Reg)
  /-- `JMP @Rm` (R303). -/
  | jmp (m : Reg)
  /-- `JSR @Rm` (R304). -/
  | jsr (m : Reg)
  /-- `RTS` (R305). -/
  | rts
  /-- `CLRT` (R321). -/
  | clrt
  /-- `CLRMAC` (R322). -/
  | clrmac
  /-- `LDC Rm,SR` (R323). -/
  | ldcSr (m : Reg)
  /-- `LDC Rm,GBR` (R324). -/
  | ldcGbr (m : Reg)
  /-- `LDC Rm,VBR` (R325). -/
  | ldcVbr (m : Reg)
  /-- `LDC.L @Rm+,SR` (R326). -/
  | ldcLSr (m : Reg)
  /-- `LDC.L @Rm+,GBR` (R327). -/
  | ldcLGbr (m : Reg)
  /-- `LDC.L @Rm+,VBR` (R328). -/
  | ldcLVbr (m : Reg)
  /-- `LDS Rm,MACH` (R329). -/
  | ldsMach (m : Reg)
  /-- `LDS Rm,MACL` (R330). -/
  | ldsMacl (m : Reg)
  /-- `LDS Rm,PR` (R331). -/
  | ldsPr (m : Reg)
  /-- `LDS.L @Rm+,MACH` (R332). -/
  | ldsLMach (m : Reg)
  /-- `LDS.L @Rm+,MACL` (R333). -/
  | ldsLMacl (m : Reg)
  /-- `LDS.L @Rm+,PR` (R334). -/
  | ldsLPr (m : Reg)
  /-- `NOP` (R335). -/
  | nop
  /-- `SETT` (R336). -/
  | sett
  /-- `STC SR,Rn` (R337). -/
  | stcSr (n : Reg)
  /-- `STC GBR,Rn` (R338). -/
  | stcGbr (n : Reg)
  /-- `STC VBR,Rn` (R339). -/
  | stcVbr (n : Reg)
  /-- `STC.L SR,@-Rn` (R340). -/
  | stcLSr (n : Reg)
  /-- `STC.L GBR,@-Rn` (R341). -/
  | stcLGbr (n : Reg)
  /-- `STC.L VBR,@-Rn` (R342). -/
  | stcLVbr (n : Reg)
  /-- `STS MACH,Rn` (R343). -/
  | stsMach (n : Reg)
  /-- `STS MACL,Rn` (R344). -/
  | stsMacl (n : Reg)
  /-- `RTE` (R345). -/
  | rte
  /-- `STS PR,Rn` (R346). -/
  | stsPr (n : Reg)
  /-- `STS.L MACH,@-Rn` (R347). -/
  | stsLMach (n : Reg)
  /-- `STS.L MACL,@-Rn` (R348). -/
  | stsLMacl (n : Reg)
  /-- `STS.L PR,@-Rn` (R349). -/
  | stsLPr (n : Reg)
  /-- `SLEEP` (R350). -/
  | sleep
  /-- `TRAPA #imm` (R351). -/
  | trapa (imm : Byte)
deriving DecidableEq, Repr

end Sys2Proof
end

