-- ==== Sys2Proof/Decode.lean ====
section
/-! DEFINITION. The decoder and the encoder (30_encoding R110 to R124). The decoder is a pure function of the sixteen
opcode bits, keyed by nibbles in the order of R118: bits 15:12, then 3:0, then 7:4, then 11:8. -/

namespace Sys2Proof

/-- The number of the general register a 4-bit field names (R112). -/
def reg (b : Nibble) : Reg := ⟨b.toNat, b.isLt⟩

/-- The 4-bit field that names a register (R112). -/
def regNibble (r : Reg) : Nibble := BitVec.ofNat 4 r.val

/-- The four bits of a field that start at bit `lo` (R9). -/
def nibbleAt {w : Nat} (v : BitVec w) (lo : Nat) : Nibble := v.extractLsb' lo 4

/-- An opcode from its four nibbles, the leftmost being bits 15:12 (R9, R111). -/
def ofNibbles (a b c d : Nibble) : Half := a ++ b ++ c ++ d

/-- Group `0000` of the opcode map (R119). -/
def decodeGroup0 (b c d : Nibble) : Option Instr :=
  match d with
  | 0x2 =>
      match c with
      | 0x0 => some (.stcSr (reg b))
      | 0x1 => some (.stcGbr (reg b))
      | 0x2 => some (.stcVbr (reg b))
      | _ => none
  | 0x3 =>
      match c with
      | 0x0 => some (.bsrf (reg b))
      | 0x2 => some (.braf (reg b))
      | _ => none
  | 0x4 => some (.movBStoreIdx (reg c) (reg b))
  | 0x5 => some (.movWStoreIdx (reg c) (reg b))
  | 0x6 => some (.movLStoreIdx (reg c) (reg b))
  | 0x7 => some (.mulL (reg c) (reg b))
  | 0x8 =>
      match c with
      | 0x0 =>
          match b with
          | 0x0 => some .clrt
          | _ => none
      | 0x1 =>
          match b with
          | 0x0 => some .sett
          | _ => none
      | 0x2 =>
          match b with
          | 0x0 => some .clrmac
          | _ => none
      | _ => none
  | 0x9 =>
      match c with
      | 0x0 =>
          match b with
          | 0x0 => some .nop
          | _ => none
      | 0x1 =>
          match b with
          | 0x0 => some .div0u
          | _ => none
      | 0x2 => some (.movt (reg b))
      | _ => none
  | 0xA =>
      match c with
      | 0x0 => some (.stsMach (reg b))
      | 0x1 => some (.stsMacl (reg b))
      | 0x2 => some (.stsPr (reg b))
      | _ => none
  | 0xB =>
      match c with
      | 0x0 =>
          match b with
          | 0x0 => some .rts
          | _ => none
      | 0x1 =>
          match b with
          | 0x0 => some .sleep
          | _ => none
      | 0x2 =>
          match b with
          | 0x0 => some .rte
          | _ => none
      | _ => none
  | 0xC => some (.movBLoadIdx (reg c) (reg b))
  | 0xD => some (.movWLoadIdx (reg c) (reg b))
  | 0xE => some (.movLLoadIdx (reg c) (reg b))
  | 0xF => some (.macL (reg c) (reg b))
  | _ => none

/-- Group `0001` of the opcode map (R119). -/
def decodeGroup1 (b c d : Nibble) : Option Instr :=
  some (.movLStoreDisp (reg c) (reg b) d)

/-- Group `0010` of the opcode map (R119). -/
def decodeGroup2 (b c d : Nibble) : Option Instr :=
  match d with
  | 0x0 => some (.movBStore (reg c) (reg b))
  | 0x1 => some (.movWStore (reg c) (reg b))
  | 0x2 => some (.movLStore (reg c) (reg b))
  | 0x4 => some (.movBStoreDec (reg c) (reg b))
  | 0x5 => some (.movWStoreDec (reg c) (reg b))
  | 0x6 => some (.movLStoreDec (reg c) (reg b))
  | 0x7 => some (.div0s (reg c) (reg b))
  | 0x8 => some (.tstReg (reg c) (reg b))
  | 0x9 => some (.andReg (reg c) (reg b))
  | 0xA => some (.xorReg (reg c) (reg b))
  | 0xB => some (.orReg (reg c) (reg b))
  | 0xC => some (.cmpStr (reg c) (reg b))
  | 0xD => some (.xtrct (reg c) (reg b))
  | 0xE => some (.muluW (reg c) (reg b))
  | 0xF => some (.mulsW (reg c) (reg b))
  | _ => none

/-- Group `0011` of the opcode map (R119). -/
def decodeGroup3 (b c d : Nibble) : Option Instr :=
  match d with
  | 0x0 => some (.cmpEq (reg c) (reg b))
  | 0x2 => some (.cmpHs (reg c) (reg b))
  | 0x3 => some (.cmpGe (reg c) (reg b))
  | 0x4 => some (.div1 (reg c) (reg b))
  | 0x5 => some (.dmuluL (reg c) (reg b))
  | 0x6 => some (.cmpHi (reg c) (reg b))
  | 0x7 => some (.cmpGt (reg c) (reg b))
  | 0x8 => some (.sub (reg c) (reg b))
  | 0xA => some (.subc (reg c) (reg b))
  | 0xB => some (.subv (reg c) (reg b))
  | 0xC => some (.addReg (reg c) (reg b))
  | 0xD => some (.dmulsL (reg c) (reg b))
  | 0xE => some (.addc (reg c) (reg b))
  | 0xF => some (.addv (reg c) (reg b))
  | _ => none

/-- Group `0100` of the opcode map (R119). -/
def decodeGroup4 (b c d : Nibble) : Option Instr :=
  match d with
  | 0x0 =>
      match c with
      | 0x0 => some (.shll (reg b))
      | 0x1 => some (.dt (reg b))
      | 0x2 => some (.shal (reg b))
      | _ => none
  | 0x1 =>
      match c with
      | 0x0 => some (.shlr (reg b))
      | 0x1 => some (.cmpPz (reg b))
      | 0x2 => some (.shar (reg b))
      | _ => none
  | 0x2 =>
      match c with
      | 0x0 => some (.stsLMach (reg b))
      | 0x1 => some (.stsLMacl (reg b))
      | 0x2 => some (.stsLPr (reg b))
      | _ => none
  | 0x3 =>
      match c with
      | 0x0 => some (.stcLSr (reg b))
      | 0x1 => some (.stcLGbr (reg b))
      | 0x2 => some (.stcLVbr (reg b))
      | _ => none
  | 0x4 =>
      match c with
      | 0x0 => some (.rotl (reg b))
      | 0x2 => some (.rotcl (reg b))
      | _ => none
  | 0x5 =>
      match c with
      | 0x0 => some (.rotr (reg b))
      | 0x1 => some (.cmpPl (reg b))
      | 0x2 => some (.rotcr (reg b))
      | _ => none
  | 0x6 =>
      match c with
      | 0x0 => some (.ldsLMach (reg b))
      | 0x1 => some (.ldsLMacl (reg b))
      | 0x2 => some (.ldsLPr (reg b))
      | _ => none
  | 0x7 =>
      match c with
      | 0x0 => some (.ldcLSr (reg b))
      | 0x1 => some (.ldcLGbr (reg b))
      | 0x2 => some (.ldcLVbr (reg b))
      | _ => none
  | 0x8 =>
      match c with
      | 0x0 => some (.shll2 (reg b))
      | 0x1 => some (.shll8 (reg b))
      | 0x2 => some (.shll16 (reg b))
      | _ => none
  | 0x9 =>
      match c with
      | 0x0 => some (.shlr2 (reg b))
      | 0x1 => some (.shlr8 (reg b))
      | 0x2 => some (.shlr16 (reg b))
      | _ => none
  | 0xA =>
      match c with
      | 0x0 => some (.ldsMach (reg b))
      | 0x1 => some (.ldsMacl (reg b))
      | 0x2 => some (.ldsPr (reg b))
      | _ => none
  | 0xB =>
      match c with
      | 0x0 => some (.jsr (reg b))
      | 0x1 => some (.tasB (reg b))
      | 0x2 => some (.jmp (reg b))
      | _ => none
  | 0xE =>
      match c with
      | 0x0 => some (.ldcSr (reg b))
      | 0x1 => some (.ldcGbr (reg b))
      | 0x2 => some (.ldcVbr (reg b))
      | _ => none
  | 0xF => some (.macW (reg c) (reg b))
  | _ => none

/-- Group `0101` of the opcode map (R119). -/
def decodeGroup5 (b c d : Nibble) : Option Instr :=
  some (.movLLoadDisp (reg c) (reg b) d)

/-- Group `0110` of the opcode map (R119). -/
def decodeGroup6 (b c d : Nibble) : Option Instr :=
  match d with
  | 0x0 => some (.movBLoad (reg c) (reg b))
  | 0x1 => some (.movWLoad (reg c) (reg b))
  | 0x2 => some (.movLLoad (reg c) (reg b))
  | 0x3 => some (.movReg (reg c) (reg b))
  | 0x4 => some (.movBLoadInc (reg c) (reg b))
  | 0x5 => some (.movWLoadInc (reg c) (reg b))
  | 0x6 => some (.movLLoadInc (reg c) (reg b))
  | 0x7 => some (.notReg (reg c) (reg b))
  | 0x8 => some (.swapB (reg c) (reg b))
  | 0x9 => some (.swapW (reg c) (reg b))
  | 0xA => some (.negc (reg c) (reg b))
  | 0xB => some (.neg (reg c) (reg b))
  | 0xC => some (.extuB (reg c) (reg b))
  | 0xD => some (.extuW (reg c) (reg b))
  | 0xE => some (.extsB (reg c) (reg b))
  | 0xF => some (.extsW (reg c) (reg b))
  | _ => none

/-- Group `0111` of the opcode map (R119). -/
def decodeGroup7 (b c d : Nibble) : Option Instr :=
  some (.addImm (reg b) (c ++ d))

/-- Group `1000` of the opcode map (R119). -/
def decodeGroup8 (b c d : Nibble) : Option Instr :=
  match b with
  | 0x0 => some (.movBStoreDisp (reg c) d)
  | 0x1 => some (.movWStoreDisp (reg c) d)
  | 0x4 => some (.movBLoadDisp (reg c) d)
  | 0x5 => some (.movWLoadDisp (reg c) d)
  | 0x8 => some (.cmpEqImm (c ++ d))
  | 0x9 => some (.bt (c ++ d))
  | 0xB => some (.bf (c ++ d))
  | 0xD => some (.bts (c ++ d))
  | 0xF => some (.bfs (c ++ d))
  | _ => none

/-- Group `1001` of the opcode map (R119). -/
def decodeGroup9 (b c d : Nibble) : Option Instr :=
  some (.movWLoadPc (reg b) (c ++ d))

/-- Group `1010` of the opcode map (R119). -/
def decodeGroupA (b c d : Nibble) : Option Instr :=
  some (.bra (b ++ c ++ d))

/-- Group `1011` of the opcode map (R119). -/
def decodeGroupB (b c d : Nibble) : Option Instr :=
  some (.bsr (b ++ c ++ d))

/-- Group `1100` of the opcode map (R119). -/
def decodeGroupC (b c d : Nibble) : Option Instr :=
  match b with
  | 0x0 => some (.movBStoreGbr (c ++ d))
  | 0x1 => some (.movWStoreGbr (c ++ d))
  | 0x2 => some (.movLStoreGbr (c ++ d))
  | 0x3 => some (.trapa (c ++ d))
  | 0x4 => some (.movBLoadGbr (c ++ d))
  | 0x5 => some (.movWLoadGbr (c ++ d))
  | 0x6 => some (.movLLoadGbr (c ++ d))
  | 0x7 => some (.mova (c ++ d))
  | 0x8 => some (.tstImm (c ++ d))
  | 0x9 => some (.andImm (c ++ d))
  | 0xA => some (.xorImm (c ++ d))
  | 0xB => some (.orImm (c ++ d))
  | 0xC => some (.tstB (c ++ d))
  | 0xD => some (.andB (c ++ d))
  | 0xE => some (.xorB (c ++ d))
  | 0xF => some (.orB (c ++ d))
  | _ => none

/-- Group `1101` of the opcode map (R119). -/
def decodeGroupD (b c d : Nibble) : Option Instr :=
  some (.movLLoadPc (reg b) (c ++ d))

/-- Group `1110` of the opcode map (R119). -/
def decodeGroupE (b c d : Nibble) : Option Instr :=
  some (.movImm (reg b) (c ++ d))

/-- The instruction an opcode given as four nibbles stands for, `none` for `ILLEGAL` (R118, R121). -/
def decodeNibbles (a b c d : Nibble) : Option Instr :=
  match a with
  | 0x0 => decodeGroup0 b c d
  | 0x1 => decodeGroup1 b c d
  | 0x2 => decodeGroup2 b c d
  | 0x3 => decodeGroup3 b c d
  | 0x4 => decodeGroup4 b c d
  | 0x5 => decodeGroup5 b c d
  | 0x6 => decodeGroup6 b c d
  | 0x7 => decodeGroup7 b c d
  | 0x8 => decodeGroup8 b c d
  | 0x9 => decodeGroup9 b c d
  | 0xA => decodeGroupA b c d
  | 0xB => decodeGroupB b c d
  | 0xC => decodeGroupC b c d
  | 0xD => decodeGroupD b c d
  | 0xE => decodeGroupE b c d
  | _ => none

/-- The instruction an opcode stands for, `none` for `ILLEGAL` (R117, R118, R121). -/
def decodeWord (w : Half) : Option Instr :=
  decodeNibbles (nibbleAt w 12) (nibbleAt w 8) (nibbleAt w 4) (nibbleAt w 0)

/-- What the decoder reads from bytes: an instruction and the bytes after it, an opcode of no row (`ILLEGAL`, R121), or
fewer bytes than the two every instruction has (R110). -/
inductive Decoded where
  | instr (i : Instr) (rest : List Byte)
  | illegalOpcode (w : Half) (rest : List Byte)
  | truncated
deriving DecidableEq, Repr

/-- Decode bytes in memory order: the byte at the lower address is the opcode's high half (R61, R110). -/
def decode : List Byte → Decoded
  | hi :: lo :: rest =>
    match decodeWord (hi ++ lo) with
    | some i => .instr i rest
    | none => .illegalOpcode (hi ++ lo) rest
  | _ => .truncated

/-- The bytes of an opcode in memory order (R61). -/
def opcodeBytes (w : Half) : List Byte := [w.extractLsb' 8 8, w.extractLsb' 0 8]

/-- The instruction the decoder reads from a row's bits, numbered as `opcode_table.json` numbers them. An opcode is one
16-bit word, stored with its high byte first. -/
def decodeTableWord (nbits w : Nat) : Option Instr :=
  match decode (opcodeBytes (BitVec.ofNat 16 (w % 2 ^ nbits))) with
  | .instr i _ => some i
  | _ => none

/-- The opcode of an instruction, each line the pattern of R120 nibble by nibble. -/
def encode : Instr → Half
  | .movImm n imm => ofNibbles 0xE (regNibble n) (nibbleAt imm 4) (nibbleAt imm 0)
  | .movWLoadPc n disp => ofNibbles 0x9 (regNibble n) (nibbleAt disp 4) (nibbleAt disp 0)
  | .movLLoadPc n disp => ofNibbles 0xD (regNibble n) (nibbleAt disp 4) (nibbleAt disp 0)
  | .movReg m n => ofNibbles 0x6 (regNibble n) (regNibble m) 0x3
  | .movBStore m n => ofNibbles 0x2 (regNibble n) (regNibble m) 0x0
  | .movWStore m n => ofNibbles 0x2 (regNibble n) (regNibble m) 0x1
  | .movLStore m n => ofNibbles 0x2 (regNibble n) (regNibble m) 0x2
  | .movBLoad m n => ofNibbles 0x6 (regNibble n) (regNibble m) 0x0
  | .movWLoad m n => ofNibbles 0x6 (regNibble n) (regNibble m) 0x1
  | .movLLoad m n => ofNibbles 0x6 (regNibble n) (regNibble m) 0x2
  | .movBStoreDec m n => ofNibbles 0x2 (regNibble n) (regNibble m) 0x4
  | .movWStoreDec m n => ofNibbles 0x2 (regNibble n) (regNibble m) 0x5
  | .movLStoreDec m n => ofNibbles 0x2 (regNibble n) (regNibble m) 0x6
  | .movBLoadInc m n => ofNibbles 0x6 (regNibble n) (regNibble m) 0x4
  | .movWLoadInc m n => ofNibbles 0x6 (regNibble n) (regNibble m) 0x5
  | .movLLoadInc m n => ofNibbles 0x6 (regNibble n) (regNibble m) 0x6
  | .movBStoreDisp n disp => ofNibbles 0x8 0x0 (regNibble n) disp
  | .movWStoreDisp n disp => ofNibbles 0x8 0x1 (regNibble n) disp
  | .movLStoreDisp m n disp => ofNibbles 0x1 (regNibble n) (regNibble m) disp
  | .movBLoadDisp m disp => ofNibbles 0x8 0x4 (regNibble m) disp
  | .movWLoadDisp m disp => ofNibbles 0x8 0x5 (regNibble m) disp
  | .movLLoadDisp m n disp => ofNibbles 0x5 (regNibble n) (regNibble m) disp
  | .movBStoreIdx m n => ofNibbles 0x0 (regNibble n) (regNibble m) 0x4
  | .movWStoreIdx m n => ofNibbles 0x0 (regNibble n) (regNibble m) 0x5
  | .movLStoreIdx m n => ofNibbles 0x0 (regNibble n) (regNibble m) 0x6
  | .movBLoadIdx m n => ofNibbles 0x0 (regNibble n) (regNibble m) 0xC
  | .movWLoadIdx m n => ofNibbles 0x0 (regNibble n) (regNibble m) 0xD
  | .movLLoadIdx m n => ofNibbles 0x0 (regNibble n) (regNibble m) 0xE
  | .movBStoreGbr disp => ofNibbles 0xC 0x0 (nibbleAt disp 4) (nibbleAt disp 0)
  | .movWStoreGbr disp => ofNibbles 0xC 0x1 (nibbleAt disp 4) (nibbleAt disp 0)
  | .movLStoreGbr disp => ofNibbles 0xC 0x2 (nibbleAt disp 4) (nibbleAt disp 0)
  | .movBLoadGbr disp => ofNibbles 0xC 0x4 (nibbleAt disp 4) (nibbleAt disp 0)
  | .movWLoadGbr disp => ofNibbles 0xC 0x5 (nibbleAt disp 4) (nibbleAt disp 0)
  | .movLLoadGbr disp => ofNibbles 0xC 0x6 (nibbleAt disp 4) (nibbleAt disp 0)
  | .mova disp => ofNibbles 0xC 0x7 (nibbleAt disp 4) (nibbleAt disp 0)
  | .movt n => ofNibbles 0x0 (regNibble n) 0x2 0x9
  | .swapB m n => ofNibbles 0x6 (regNibble n) (regNibble m) 0x8
  | .swapW m n => ofNibbles 0x6 (regNibble n) (regNibble m) 0x9
  | .xtrct m n => ofNibbles 0x2 (regNibble n) (regNibble m) 0xD
  | .addReg m n => ofNibbles 0x3 (regNibble n) (regNibble m) 0xC
  | .addImm n imm => ofNibbles 0x7 (regNibble n) (nibbleAt imm 4) (nibbleAt imm 0)
  | .addc m n => ofNibbles 0x3 (regNibble n) (regNibble m) 0xE
  | .addv m n => ofNibbles 0x3 (regNibble n) (regNibble m) 0xF
  | .cmpEqImm imm => ofNibbles 0x8 0x8 (nibbleAt imm 4) (nibbleAt imm 0)
  | .cmpEq m n => ofNibbles 0x3 (regNibble n) (regNibble m) 0x0
  | .cmpHs m n => ofNibbles 0x3 (regNibble n) (regNibble m) 0x2
  | .cmpGe m n => ofNibbles 0x3 (regNibble n) (regNibble m) 0x3
  | .cmpHi m n => ofNibbles 0x3 (regNibble n) (regNibble m) 0x6
  | .cmpGt m n => ofNibbles 0x3 (regNibble n) (regNibble m) 0x7
  | .cmpPl n => ofNibbles 0x4 (regNibble n) 0x1 0x5
  | .cmpPz n => ofNibbles 0x4 (regNibble n) 0x1 0x1
  | .cmpStr m n => ofNibbles 0x2 (regNibble n) (regNibble m) 0xC
  | .div1 m n => ofNibbles 0x3 (regNibble n) (regNibble m) 0x4
  | .div0s m n => ofNibbles 0x2 (regNibble n) (regNibble m) 0x7
  | .div0u => ofNibbles 0x0 0x0 0x1 0x9
  | .dmulsL m n => ofNibbles 0x3 (regNibble n) (regNibble m) 0xD
  | .dmuluL m n => ofNibbles 0x3 (regNibble n) (regNibble m) 0x5
  | .dt n => ofNibbles 0x4 (regNibble n) 0x1 0x0
  | .extsB m n => ofNibbles 0x6 (regNibble n) (regNibble m) 0xE
  | .extsW m n => ofNibbles 0x6 (regNibble n) (regNibble m) 0xF
  | .extuB m n => ofNibbles 0x6 (regNibble n) (regNibble m) 0xC
  | .extuW m n => ofNibbles 0x6 (regNibble n) (regNibble m) 0xD
  | .macL m n => ofNibbles 0x0 (regNibble n) (regNibble m) 0xF
  | .macW m n => ofNibbles 0x4 (regNibble n) (regNibble m) 0xF
  | .mulL m n => ofNibbles 0x0 (regNibble n) (regNibble m) 0x7
  | .mulsW m n => ofNibbles 0x2 (regNibble n) (regNibble m) 0xF
  | .muluW m n => ofNibbles 0x2 (regNibble n) (regNibble m) 0xE
  | .neg m n => ofNibbles 0x6 (regNibble n) (regNibble m) 0xB
  | .negc m n => ofNibbles 0x6 (regNibble n) (regNibble m) 0xA
  | .sub m n => ofNibbles 0x3 (regNibble n) (regNibble m) 0x8
  | .subc m n => ofNibbles 0x3 (regNibble n) (regNibble m) 0xA
  | .subv m n => ofNibbles 0x3 (regNibble n) (regNibble m) 0xB
  | .andReg m n => ofNibbles 0x2 (regNibble n) (regNibble m) 0x9
  | .andImm imm => ofNibbles 0xC 0x9 (nibbleAt imm 4) (nibbleAt imm 0)
  | .andB imm => ofNibbles 0xC 0xD (nibbleAt imm 4) (nibbleAt imm 0)
  | .notReg m n => ofNibbles 0x6 (regNibble n) (regNibble m) 0x7
  | .orReg m n => ofNibbles 0x2 (regNibble n) (regNibble m) 0xB
  | .orImm imm => ofNibbles 0xC 0xB (nibbleAt imm 4) (nibbleAt imm 0)
  | .orB imm => ofNibbles 0xC 0xF (nibbleAt imm 4) (nibbleAt imm 0)
  | .tasB n => ofNibbles 0x4 (regNibble n) 0x1 0xB
  | .tstReg m n => ofNibbles 0x2 (regNibble n) (regNibble m) 0x8
  | .tstImm imm => ofNibbles 0xC 0x8 (nibbleAt imm 4) (nibbleAt imm 0)
  | .tstB imm => ofNibbles 0xC 0xC (nibbleAt imm 4) (nibbleAt imm 0)
  | .xorReg m n => ofNibbles 0x2 (regNibble n) (regNibble m) 0xA
  | .xorImm imm => ofNibbles 0xC 0xA (nibbleAt imm 4) (nibbleAt imm 0)
  | .xorB imm => ofNibbles 0xC 0xE (nibbleAt imm 4) (nibbleAt imm 0)
  | .rotl n => ofNibbles 0x4 (regNibble n) 0x0 0x4
  | .rotr n => ofNibbles 0x4 (regNibble n) 0x0 0x5
  | .rotcl n => ofNibbles 0x4 (regNibble n) 0x2 0x4
  | .rotcr n => ofNibbles 0x4 (regNibble n) 0x2 0x5
  | .shal n => ofNibbles 0x4 (regNibble n) 0x2 0x0
  | .shar n => ofNibbles 0x4 (regNibble n) 0x2 0x1
  | .shll n => ofNibbles 0x4 (regNibble n) 0x0 0x0
  | .shlr n => ofNibbles 0x4 (regNibble n) 0x0 0x1
  | .shll2 n => ofNibbles 0x4 (regNibble n) 0x0 0x8
  | .shlr2 n => ofNibbles 0x4 (regNibble n) 0x0 0x9
  | .shll8 n => ofNibbles 0x4 (regNibble n) 0x1 0x8
  | .shlr8 n => ofNibbles 0x4 (regNibble n) 0x1 0x9
  | .shll16 n => ofNibbles 0x4 (regNibble n) 0x2 0x8
  | .shlr16 n => ofNibbles 0x4 (regNibble n) 0x2 0x9
  | .bf disp => ofNibbles 0x8 0xB (nibbleAt disp 4) (nibbleAt disp 0)
  | .bfs disp => ofNibbles 0x8 0xF (nibbleAt disp 4) (nibbleAt disp 0)
  | .bt disp => ofNibbles 0x8 0x9 (nibbleAt disp 4) (nibbleAt disp 0)
  | .bts disp => ofNibbles 0x8 0xD (nibbleAt disp 4) (nibbleAt disp 0)
  | .bra disp => ofNibbles 0xA (nibbleAt disp 8) (nibbleAt disp 4) (nibbleAt disp 0)
  | .braf m => ofNibbles 0x0 (regNibble m) 0x2 0x3
  | .bsr disp => ofNibbles 0xB (nibbleAt disp 8) (nibbleAt disp 4) (nibbleAt disp 0)
  | .bsrf m => ofNibbles 0x0 (regNibble m) 0x0 0x3
  | .jmp m => ofNibbles 0x4 (regNibble m) 0x2 0xB
  | .jsr m => ofNibbles 0x4 (regNibble m) 0x0 0xB
  | .rts => ofNibbles 0x0 0x0 0x0 0xB
  | .clrt => ofNibbles 0x0 0x0 0x0 0x8
  | .clrmac => ofNibbles 0x0 0x0 0x2 0x8
  | .ldcSr m => ofNibbles 0x4 (regNibble m) 0x0 0xE
  | .ldcGbr m => ofNibbles 0x4 (regNibble m) 0x1 0xE
  | .ldcVbr m => ofNibbles 0x4 (regNibble m) 0x2 0xE
  | .ldcLSr m => ofNibbles 0x4 (regNibble m) 0x0 0x7
  | .ldcLGbr m => ofNibbles 0x4 (regNibble m) 0x1 0x7
  | .ldcLVbr m => ofNibbles 0x4 (regNibble m) 0x2 0x7
  | .ldsMach m => ofNibbles 0x4 (regNibble m) 0x0 0xA
  | .ldsMacl m => ofNibbles 0x4 (regNibble m) 0x1 0xA
  | .ldsPr m => ofNibbles 0x4 (regNibble m) 0x2 0xA
  | .ldsLMach m => ofNibbles 0x4 (regNibble m) 0x0 0x6
  | .ldsLMacl m => ofNibbles 0x4 (regNibble m) 0x1 0x6
  | .ldsLPr m => ofNibbles 0x4 (regNibble m) 0x2 0x6
  | .nop => ofNibbles 0x0 0x0 0x0 0x9
  | .sett => ofNibbles 0x0 0x0 0x1 0x8
  | .stcSr n => ofNibbles 0x0 (regNibble n) 0x0 0x2
  | .stcGbr n => ofNibbles 0x0 (regNibble n) 0x1 0x2
  | .stcVbr n => ofNibbles 0x0 (regNibble n) 0x2 0x2
  | .stcLSr n => ofNibbles 0x4 (regNibble n) 0x0 0x3
  | .stcLGbr n => ofNibbles 0x4 (regNibble n) 0x1 0x3
  | .stcLVbr n => ofNibbles 0x4 (regNibble n) 0x2 0x3
  | .stsMach n => ofNibbles 0x0 (regNibble n) 0x0 0xA
  | .stsMacl n => ofNibbles 0x0 (regNibble n) 0x1 0xA
  | .rte => ofNibbles 0x0 0x0 0x2 0xB
  | .stsPr n => ofNibbles 0x0 (regNibble n) 0x2 0xA
  | .stsLMach n => ofNibbles 0x4 (regNibble n) 0x0 0x2
  | .stsLMacl n => ofNibbles 0x4 (regNibble n) 0x1 0x2
  | .stsLPr n => ofNibbles 0x4 (regNibble n) 0x2 0x2
  | .sleep => ofNibbles 0x0 0x0 0x1 0xB
  | .trapa imm => ofNibbles 0xC 0x3 (nibbleAt imm 4) (nibbleAt imm 0)

/-- The thirteen instructions that assign `pc` and must not stand in a delay slot (R124, R293). -/
def Instr.writesPc : Instr → Bool
  | .bf _ => true
  | .bfs _ => true
  | .bt _ => true
  | .bts _ => true
  | .bra _ => true
  | .braf _ => true
  | .bsr _ => true
  | .bsrf _ => true
  | .jmp _ => true
  | .jsr _ => true
  | .rts => true
  | .rte => true
  | .trapa _ => true
  | _ => false

/-- The delayed branches (44_branch R290(c)). -/
def Instr.isDelayedBranch : Instr → Bool
  | .bfs _ => true
  | .bts _ => true
  | .bra _ => true
  | .braf _ => true
  | .bsr _ => true
  | .bsrf _ => true
  | .jmp _ => true
  | .jsr _ => true
  | .rts => true
  | .rte => true
  | _ => false

/-- The three forms whose address is formed from the pc of the instruction (R124, R292). -/
def Instr.isPcRelative : Instr → Bool
  | .movWLoadPc _ _ => true
  | .movLLoadPc _ _ => true
  | .mova _ => true
  | _ => false

end Sys2Proof
end

