-- ==== Sys2Proof/Config.lean ====
section
/-! DEFINITION. What an implementation fixes: the parameters of 00_scope R6, where each store's bytes stand in the memory
list, and the free values, constants without a body that stand for the spec's draws. -/

namespace Sys2Proof

namespace Machine

/-- The three access sizes (20_memory R66): one, two and four bytes. -/
inductive Size where
  | byte
  | word
  | long
deriving DecidableEq, Repr

end Machine

/-- Which of the two identical nodes this is (`CORE_ID`, R6, R431). -/
inductive CoreId where
  | master
  | slave
deriving DecidableEq, Repr

/-- `PCREL_IN_SLOT`: the base of a PC-relative form in a delay slot (44_branch R292, D9). -/
inductive PcrelInSlot where
  | refuse
  | targetBased
  | slotBased
deriving DecidableEq, Repr

/-- `UNMAPPED`: an unmapped address or an access a region refuses (20_memory R88, D3). -/
inductive UnmappedPolicy where
  | fault
  | clamp
deriving DecidableEq, Repr

/-- `TCR_MODULUS`: the document's 16-bit DMA counter or the chip's 24-bit one (R457, D18). -/
inductive TcrModulus where
  | bits16
  | bits24
deriving DecidableEq, Repr

/-- `WDT_IRQ_MODE`: the timer mode in which an overflow raises the interrupt (R486, D20). -/
inductive WdtIrqMode where
  | watchdog
  | interval
deriving DecidableEq, Repr

/-- `CACHE_MODEL`: no cache state, or reads through the cached alias that may see earlier values (20_memory R98, D6). -/
inductive CacheModel where
  | transparent
  | staleDraw
deriving DecidableEq, Repr

/-- A row of `ADDRESS_MAP` (R6, R74): base, size in bytes, the sizes a read and a write of the region may have (R70). -/
structure Window where
  base : Nat
  size : Nat
  reads : List Machine.Size
  writes : List Machine.Size
deriving DecidableEq, Repr

/-- The numbers of the address space that R6 makes parameters: `ADDRESS_MAP` with the size policies of R74, the two
`BOOTROM_SIZE`, `SDRAM_SIZE`, `ADDR_SIG_BITS`, `ONCHIP_BASE`. -/
structure Layout where
  bootRomBase : Nat
  bootRomSizeMaster : ℕ+
  bootRomSizeSlave : ℕ+
  system : Window
  video : Window
  palette : Window
  cart : Window
  frameBuffer : Window
  overRegion : Window
  sdramBase : Nat
  sdramSize : Nat
  addrSigBits : Nat
  onChipBase : Nat
deriving DecidableEq, Repr

/-- The parameters of R6. They are constant in every run; a statement over every state holds for every setting. DESIGN CHOICE
(log 10): they stand in State. -/
structure Params where
  coreId : CoreId
  layout : Layout
  pcrelInSlot : PcrelInSlot
  unmapped : UnmappedPolicy
  /-- `NMI_VECTOR` (R401, D32). -/
  nmiVector : Byte
  tcrModulus : TcrModulus
  wdtIrqMode : WdtIrqMode
  /-- `WDT_DIVIDER[0..7]`, keyed by the three `CKS` bits (R483). -/
  wdtDivider : Vector ℕ+ 8
  /-- `DMA_UNITS_PER_STEP`, any positive value (R463, D17). -/
  dmaUnitsPerStep : ℕ+
  cacheModel : CacheModel
deriving DecidableEq, Repr

namespace Config

/-- Where the boot ROM's bytes stand in the memory list: at this number plus their offset. The five stores are 2^32 apart, so
that no address map makes two of them meet. -/
def bootRomStore : Nat := 0

/-- Where the cartridge image's bytes stand. -/
def cartStore : Nat := 0x100000000

/-- Where the bytes of the writable frame-buffer bank stand. -/
def frameBufferStore : Nat := 0x200000000

/-- Where SDRAM's bytes stand. -/
def sdramStore : Nat := 0x300000000

/-- Where the on-chip byte storage stands. -/
def onChipStore : Nat := 0x400000000

/-- Under which number the earlier values of the interrupt mask register are kept (R98). No byte of memory stands there. -/
def maskStore : Nat := 0x500000000

/-- The value of the k-th draw (00_scope R13: "a value under no law"). No body: nothing can be proved of a
value of it. DESIGN CHOICE (log 5). -/
opaque draw : Nat → BitVec 64

/-- What an unwritten SDRAM or on-chip byte at a backing address reads as after the e-th system reset: a draw
fixed at reset (R76, R470, R502). DESIGN CHOICE (log 6). -/
opaque initialByte : Nat → Nat → Byte

/-- A cartridge byte between the image's length and its power-of-two size (R77, U16: any value). R77 calls it a draw, R69 and
R85 make reads of the cartridge idempotent and its contents constant: that it is one free byte for each address, the same at
every read, is a DESIGN CHOICE (log 29). -/
opaque cartPadding : Nat → Byte

/-- `INTC_TIE_ORDER`, open: which of the sources tied at the accepted level is taken at the k-th free choice
(R449, D15). DESIGN CHOICE (log 11). -/
opaque tieChoice : Nat → Nat

/-- `CACHE_MODEL = stale_draw`: which of the values a byte has had since its last purge a read through the cached alias sees,
by the draw and the place of the byte in the access (R98). DESIGN CHOICE (log 27). -/
opaque staleChoice : Nat → Nat → Nat

end Config

end Sys2Proof
end

