-- ==== Sys2Proof/Machine/Defaults.lean ====
section
/-! DEFINITION. The defaults of the parameters (00_scope R6), the numbers of the address map among them (20_memory R74). -/

namespace Sys2Proof

/-- All three access sizes. -/
def Machine.anySize : List Machine.Size := [.byte, .word, .long]

namespace Config

/-- The default `ADDRESS_MAP` and sizes (R6, R74). -/
def defaultLayout : Layout :=
  { bootRomBase := 0
    bootRomSizeMaster := 2048
    bootRomSizeSlave := 1024
    system := ⟨0x4000, 0x100, [.byte, .word], [.byte, .word]⟩
    video := ⟨0x4100, 0x100, [.byte, .word], [.byte, .word]⟩
    palette := ⟨0x4200, 0x200, [.word], [.word]⟩
    cart := ⟨0x2000000, 0x400000, Machine.anySize, []⟩
    frameBuffer := ⟨0x4000000, 0x20000, Machine.anySize, Machine.anySize⟩
    overRegion := ⟨0x4020000, 0x20000, Machine.anySize, Machine.anySize⟩
    sdramBase := 0x6000000
    sdramSize := 0x40000
    addrSigBits := 28
    onChipBase := 0xFFFFFE00 }

/-- The defaults of R6. `CORE_ID` has no default there: DESIGN CHOICE, the master node (log 10). -/
def defaultParams : Params :=
  { coreId := .master
    layout := defaultLayout
    pcrelInSlot := .refuse
    unmapped := .fault
    nmiVector := 72
    tcrModulus := .bits16
    wdtIrqMode := .watchdog
    wdtDivider := #v[2, 64, 128, 256, 512, 1024, 4096, 8192]
    dmaUnitsPerStep := 1
    cacheModel := .transparent }

end Config

end Sys2Proof
end

