-- ==== Sys2Proof/Machine/State.lean ====
section
/-! DEFINITION. The state of one SH-2 processing node as plain data (10_state, 60_exceptions R437 to R489, 70_reset R502),
the reasons a step can stop (60_exceptions R403), and the state right after reset. -/

namespace Sys2Proof.Machine

/-- A DMA channel of the node (R455). -/
inductive Channel where
  | ch0
  | ch1
deriving DecidableEq, Repr

/-- Who performs a memory access (R92). -/
inductive Agent where
  | core
  | dmac (c : Channel)
deriving DecidableEq, Repr

/-- What a `BusPolicy` fault was about (R88, R439): a read, a write, or the access size of an on-chip register. -/
inductive AccessKind where
  | read
  | write
  | size
deriving DecidableEq, Repr

/-- The faults of 60_exceptions R403. Each is safe: the model stops where the spec gives no behaviour. -/
inductive Fault where
  /-- A misaligned access or a fetch from an odd `pc` (R64, R307). Raised by every memory access. Safe. -/
  | addressError (addr : Word) (size : Size) (agent : Agent)
  /-- An unmapped address, a write to ROM, a size the region refuses (R88, R439), a reserved DMA address mode (R458).
  Raised by every memory access and by a DMA step. Safe. -/
  | busPolicy (addr : Word) (size : Size) (kind : AccessKind) (agent : Agent)
  /-- An instruction that writes `pc`, or an illegal opcode, in a delay slot (R293). Raised by the thirteen
  instructions that write `pc` and by the sequencer. Safe. -/
  | slotIllegal (pc : Word)
deriving DecidableEq, Repr

/-- The refusals of 60_exceptions R403. Each is safe: the model stops where the spec's sources disagree or the feature is
out of scope. -/
inductive Refusal where
  /-- An instruction without a meaning yet. No arm of exec raises it. Safe. -/
  | notModelled (mnemonic : String)
  /-- A PC-relative form in a delay slot under `PCREL_IN_SLOT = refuse` (R292). Raised by `MOV.W @(disp,PC),Rn`,
  `MOV.L @(disp,PC),Rn` and `MOVA`. Safe. -/
  | pcRelInSlot (pc : Word)
  /-- `SLEEP` with the standby bit of `SBYCR` set (R350). Safe. -/
  | standbyMode
  /-- A watchdog overflow with reset enabled (R487). Raised by the WDT's step. Safe. -/
  | watchdogReset
deriving DecidableEq, Repr

/-- The core's run state (R48). -/
inductive RunState where
  | running
  | sleeping
deriving DecidableEq, Repr

/-- The board sources (R440, R441). -/
inductive BoardSource where
  | nmi
  | vres
  | vint
  | hint
  | cmd
  | pwm
deriving DecidableEq, Repr

/-- The ten interrupt sources: six board sources and four on-chip-device sources (R440). -/
inductive Source where
  | board (b : BoardSource)
  | divu
  | dmac (c : Channel)
  | wdt
deriving DecidableEq, Repr

/-- `pending[s]` for the ten sources (R46, R440). -/
structure Pending where
  nmi : Bool
  vres : Bool
  vint : Bool
  hint : Bool
  cmd : Bool
  pwm : Bool
  divu : Bool
  dmac0 : Bool
  dmac1 : Bool
  wdt : Bool
deriving DecidableEq, Repr

/-- The interrupt controller's registers (R443, R450). -/
structure Intc where
  pending : Pending
  /-- The node's interrupt mask register: bit 3 VINT, 2 HINT, 1 CMD, 0 PWM, 1 = unmasked (R443). -/
  mask : BitVec 4
  ipra : Half
  iprb : Half
  vcra : Half
  vcrb : Half
  vcrc : Half
  vcrd : Half
  vcrwdt : Half
  icr : Half
deriving DecidableEq, Repr

/-- One DMA channel (R455): its registers and the level of its request line. -/
structure DmaChannel where
  sar : Word
  dar : Word
  tcr : Word
  chcr : Word
  vcrdma : Word
  drcr : Byte
  /-- `ext_trigger[n]` (R461). -/
  extTrigger : Bool
deriving DecidableEq, Repr

/-- The division unit (R472, R477). -/
structure Divu where
  dvsr : Word
  dvdnt : Word
  dvcr : Word
  vcrdiv : Word
  dvdnth : Word
  dvdntl : Word
deriving DecidableEq, Repr

/-- The watchdog timer (R480) with its hidden prescaler count (R49, R484). -/
structure Wdt where
  wtcnt : Byte
  wtcsr : Byte
  rstcsr : Byte
  presc : Nat
deriving DecidableEq, Repr

/-- A move of an agent other than the node's core (R92, R93, R434). -/
inductive Move where
  /-- A step of a DMA channel (R463). -/
  | dma (c : Channel)
  /-- `WdtStep(cycles)`, `cycles` positive (R484). -/
  | wdt (cycles : ℕ+)
  /-- The Host raises a board source: `setPending(b, 1)` (R93, R442). -/
  | hostRaise (b : BoardSource)
  /-- The Host drives a DMA request line (R461). -/
  | hostTrigger (c : Channel) (v : Bool)
  /-- The bank bit of the frame buffer changes (R80, R93). -/
  | hostBankSwap
  /-- The Host writes a byte of the writable frame-buffer bank (R93). -/
  | hostFrameBuffer (off : Nat) (v : Byte)
  /-- A write of the other node's core or DMA channels to a shared store (R92, R94). -/
  | otherNode (addr : Word) (size : Size) (v : Word)
deriving DecidableEq, Repr

/-- The next step of the node (R92). -/
inductive Event where
  /-- A step of the core. -/
  | core
  /-- A step of another agent. -/
  | move (m : Move)
  /-- A system reset (R500). -/
  | hostReset
  /-- A scheduling point at which no agent steps and the core samples its interrupts (R410, R503; log 8). -/
  | boundary
deriving DecidableEq, Repr

/-- The earlier values of one byte, under `CACHE_MODEL = stale_draw` (20_memory R98). -/
structure StaleByte where
  /-- The byte's place in the memory list. -/
  key : Nat
  /-- The values it had since the core's last purge of it, newest first; `none` where it had no value of its own. -/
  earlier : List (Option Byte)
  /-- Was it last written by another agent, or around the cache? -/
  foreign : Bool
deriving DecidableEq, Repr

/-- The bytes of the stores: (number, byte) pairs with strictly rising numbers; a number is a store and an offset
in it (`Config.bootRomStore` to `Config.onChipStore`). -/
abbrev Memory := List Host.Cell

/-- The state of the node. -/
structure State where
  /-- The parameters of 00_scope R6, constant in every run. -/
  params : Params
  /-- `R0` to `R15` (R20). -/
  regs : Vector Word 16
  /-- The address of the instruction being executed (R24). -/
  pc : Word
  /-- The status register (R28). -/
  sr : Word
  gbr : Word
  vbr : Word
  mach : Word
  macl : Word
  pr : Word
  /-- `in_slot` and `branch_target` (R45): `none` while `in_slot` is 0, the target while it is 1. -/
  delaySlot : Option Word
  /-- `run_state` (R48). -/
  run : RunState
  /-- Boot ROM, cartridge ROM, frame-buffer bank, SDRAM and the on-chip byte storage (R74, R470). -/
  mem : Memory
  /-- The length of the cartridge image in bytes, never zero (R77, R506). -/
  cartLength : ℕ+
  /-- The active/writable-bank bit of the frame buffer (R72, R80). -/
  fbBank : Bool
  intc : Intc
  dma0 : DmaChannel
  dma1 : DmaChannel
  dmaor : Word
  divu : Divu
  wdt : Wdt
  sbycr : Byte
  ccr : Byte
  /-- The model's own: how many draws have been taken (log 5). -/
  draws : Nat
  /-- The model's own: how many system resets have happened (log 22). -/
  epoch : Nat
  /-- The model's own: the agents' moves still to come; when it is empty the core moves (log 7). -/
  schedule : List Event
  /-- The model's own: the moves that fall inside the core's coming instructions, one batch for each point between two memory
  events of an instruction; when it is empty nothing falls inside (R68, R94; log 20). -/
  inside : List (List Move)
  /-- The model's own: the earlier values a read through the cached alias may see; empty under `CACHE_MODEL = transparent`
  from reset on (R98; log 27). -/
  stale : List StaleByte
deriving DecidableEq, Repr

/-- Every pending bit clear (R502). -/
def Pending.none : Pending :=
  { nmi := false, vres := false, vint := false, hint := false, cmd := false, pwm := false,
    divu := false, dmac0 := false, dmac1 := false, wdt := false }

/-- The INTC after reset (R502, R443). -/
def Intc.reset : Intc :=
  { pending := Pending.none, mask := 0, ipra := 0, iprb := 0, vcra := 0, vcrb := 0, vcrc := 0, vcrd := 0,
    vcrwdt := 0, icr := 0 }

/-- A DMA channel after reset (R502). `SAR`, `DAR`, `TCR`, `VCRDMA` have no value in the spec:
DESIGN CHOICE 0, unsafe (log 3). -/
def DmaChannel.reset : DmaChannel :=
  { sar := 0, dar := 0, tcr := 0, chcr := 0, vcrdma := 0, drcr := 0, extTrigger := false }

/-- The DIVU after reset (R502). All but `DVCR` have no value in the spec: DESIGN CHOICE 0, unsafe (log 3). -/
def Divu.reset : Divu :=
  { dvsr := 0, dvdnt := 0, dvcr := 0, vcrdiv := 0, dvdnth := 0, dvdntl := 0 }

/-- The WDT after reset (R502). -/
def Wdt.reset : Wdt :=
  { wtcnt := 0, wtcsr := 0x18, rstcsr := 0x1F, presc := 0 }

/-- The node right after reset (R50, R501, R502), with the all-zero boot ROM image (log 4), so that `pc` and `R15`, the
longwords at 0 and 4, are 0. The registers the spec gives no reset value hold 0: DESIGN CHOICE, unsafe (log 1, 2, 3). -/
def State.reset : State :=
  { params := Config.defaultParams
    regs := Vector.replicate 16 0
    pc := 0
    sr := 0xF0
    gbr := 0
    vbr := 0
    mach := 0
    macl := 0
    pr := 0
    delaySlot := none
    run := .running
    mem := []
    cartLength := 0x400000
    fbBank := false
    intc := Intc.reset
    dma0 := DmaChannel.reset
    dma1 := DmaChannel.reset
    dmaor := 0
    divu := Divu.reset
    wdt := Wdt.reset
    sbycr := 0x60
    ccr := 0
    draws := 0
    epoch := 0
    schedule := []
    inside := []
    stale := [] }

end Sys2Proof.Machine
end

