-- ==== Sys2Proof/Machine/Bits.lean ====
section
/-! DEFINITION. Bit fields, extensions and byte order (00_scope R9, R10; 20_memory R60, R66), and the registers' accessors
(00_scope R11, 10_state R20 to R36). -/

namespace Sys2Proof.Machine

/-- The number of bytes of an access (R66). -/
def Size.bytes : Size → Nat
  | .byte => 1
  | .word => 2
  | .long => 4

/-- `sext_8(v)`: the low 8 bits of `v`, sign-extended to 32 (R10). -/
def sext8 (v : Word) : Word := (v.setWidth 8).signExtend 32

/-- `sext_16(v)` (R10). -/
def sext16 (v : Word) : Word := (v.setWidth 16).signExtend 32

/-- `zext_8(v)` (R10). -/
def zext8 (v : Word) : Word := (v.setWidth 8).setWidth 32

/-- `zext_16(v)` (R10). -/
def zext16 (v : Word) : Word := (v.setWidth 16).setWidth 32

/-- A value with bit `i` set to `b` (R9). -/
def withBit {w : Nat} (v : BitVec w) (i : Nat) (b : Bool) : BitVec w :=
  if b then v ||| BitVec.twoPow w i else v &&& ~~~BitVec.twoPow w i

/-- A Bool as a 32-bit 0 or 1 (R10: `zext_1`). -/
def boolWord (b : Bool) : Word := if b then 1 else 0

/-- The bytes of the low `8 * n` bits of a value, most significant first (R60). -/
def beBytes : Size → Word → List Byte
  | .byte, v => [v.extractLsb' 0 8]
  | .word, v => [v.extractLsb' 8 8, v.extractLsb' 0 8]
  | .long, v => [v.extractLsb' 24 8, v.extractLsb' 16 8, v.extractLsb' 8 8, v.extractLsb' 0 8]

/-- The big-endian value of bytes, zero-extended to 32 bits (R60). -/
def beValue (bs : List Byte) : Word :=
  bs.foldl (fun acc b => (acc <<< 8) ||| b.setWidth 32) 0

/-- `v mod 2^(8n)`: a value cut to an access size, zero-extended to 32 bits (R13). -/
def truncate : Size → Word → Word
  | .byte, v => zext8 v
  | .word, v => zext16 v
  | .long, v => v

/-- The value of the draw numbered `k`, cut to 32 bits (R13). -/
def drawWord (k : Nat) : Word := (Config.draw k).setWidth 32

/-- `R[i]` (R11). -/
def State.reg (s : State) (i : Reg) : Word := s.regs[i.val]

/-- `R[i] <- v` (R11). -/
def State.setReg (s : State) (i : Reg) (v : Word) : State :=
  { s with regs := s.regs.set i.val v }

/-- The implicit `pc <- pc + 2` that ends a rule which does not assign `pc` (R25). -/
def State.advance (s : State) : State := { s with pc := s.pc + 2 }

/-- The bits of `SR` that are architecturally meaningful (R29). -/
def srMask : Word := 0x3F3

/-- A write of a whole value to `SR` (R29: "all writes to SR must be masked"). -/
def State.setSr (s : State) (v : Word) : State := { s with sr := v &&& srMask }

/-- `T`, bit 0 of `SR` (R28). -/
def State.t (s : State) : Bool := s.sr.getLsbD 0

/-- `S`, bit 1 of `SR` (R28). -/
def State.sBit (s : State) : Bool := s.sr.getLsbD 1

/-- `Q`, bit 8 of `SR` (R28). -/
def State.q (s : State) : Bool := s.sr.getLsbD 8

/-- `M`, bit 9 of `SR` (R28). -/
def State.m (s : State) : Bool := s.sr.getLsbD 9

/-- `IMASK`, bits 7:4 of `SR` (R28). -/
def State.imask (s : State) : BitVec 4 := s.sr.extractLsb' 4 4

/-- `T <- b`. -/
def State.setT (s : State) (b : Bool) : State := { s with sr := withBit s.sr 0 b }

/-- `Q <- b`. -/
def State.setQ (s : State) (b : Bool) : State := { s with sr := withBit s.sr 8 b }

/-- `M <- b`. -/
def State.setM (s : State) (b : Bool) : State := { s with sr := withBit s.sr 9 b }

/-- `IMASK <- v` (R33). -/
def State.setImask (s : State) (v : BitVec 4) : State :=
  { s with sr := (s.sr &&& ~~~(0xF0 : Word)) ||| (v.setWidth 32 <<< 4) }

/-- `MAC = MACH ‖ MACL` (R11, R41). -/
def State.mac (s : State) : BitVec 64 := s.mach ++ s.macl

/-- `MACH <- v[63:32]; MACL <- v[31:0]` (R41). -/
def State.setMac (s : State) (v : BitVec 64) : State :=
  { s with mach := v.extractLsb' 32 32, macl := v.extractLsb' 0 32 }

/-- A DMA channel's registers (R455). -/
def State.chan (s : State) : Channel → DmaChannel
  | .ch0 => s.dma0
  | .ch1 => s.dma1

/-- Replace a DMA channel's registers. -/
def State.setChan (s : State) (c : Channel) (d : DmaChannel) : State :=
  match c with
  | .ch0 => { s with dma0 := d }
  | .ch1 => { s with dma1 := d }

end Sys2Proof.Machine
end

