-- ==== Sys2Proof/Machine/Memory.lean ====
section
/-! DEFINITION. The byte stores (20_memory R74 to R81, 60_exceptions R470): one list of (backing address, byte) pairs in one
canonical form. The backing address of a byte is the number of its store (`Config.bootRomStore` to `Config.onChipStore`) plus
its offset there, after aliases and mirrors are resolved (R73, R77, R81), so that it does not depend on the address map. Also
the earlier values of bytes that a read through the cached alias may see under `CACHE_MODEL = stale_draw` (R98). -/

namespace Sys2Proof.Machine

/-- The byte listed at a backing address. -/
def Memory.get? : Memory → Nat → Option Byte
  | [], _ => none
  | (k, c) :: m, a => if k = a then some c else Memory.get? m a

/-- List a byte at a backing address. -/
def Memory.insert : Memory → Nat → Byte → Memory
  | [], a, b => [(a, b)]
  | (k, c) :: m, a, b =>
    if a < k then (a, b) :: (k, c) :: m
    else if a = k then (a, b) :: m
    else (k, c) :: Memory.insert m a b

/-- Take a backing address off the list. -/
def Memory.erase : Memory → Nat → Memory
  | [], _ => []
  | (k, c) :: m, a => if k = a then m else (k, c) :: Memory.erase m a

/-- Is this the backing address of a byte of the boot ROM or of the cartridge (R75, R77)? -/
def inRom (a : Nat) : Bool := a < Config.frameBufferStore

/-- Is this the backing address of a byte of the frame buffer (R80)? -/
def inFrameBuffer (a : Nat) : Bool := Config.frameBufferStore ≤ a && a < Config.sdramStore

/-- What an unlisted byte reads as where that is one fixed byte: 0 in the two ROM images (DESIGN CHOICE, log 4). Everywhere
else an unlisted byte has no value of its own and a read of it is a free value (R76, R84, R470; log 6, 16). -/
def unlistedByte (a : Nat) : Option Byte := if inRom a then some 0 else none

/-- Write one byte: an entry equal to what an unlisted address reads as is taken off the list. -/
def Memory.set (m : Memory) (a : Nat) (b : Byte) : Memory :=
  if unlistedByte a = some b then m.erase a else m.insert a b

/-- Write bytes at their backing addresses, in order. -/
def Memory.setCells : Memory → List Host.Cell → Memory
  | m, [] => m
  | m, (a, b) :: cs => Memory.setCells (m.set a b) cs

/-- Bytes laid out at rising addresses from `a` (R60). -/
def cellsAt : Nat → List Byte → List Host.Cell
  | _, [] => []
  | a, b :: bs => (a, b) :: cellsAt (a + 1) bs

/-- Every listed address is above `lo`, and the addresses rise strictly. -/
def Memory.risingFrom : Nat → Memory → Bool
  | _, [] => true
  | lo, (k, _) :: m => lo ≤ k && Memory.risingFrom (k + 1) m

/-- The canonical form: addresses strictly rising, and no entry equal to what an unlisted address reads as. -/
def Memory.wf (m : Memory) : Bool :=
  Memory.risingFrom 0 m && m.all (fun c => unlistedByte c.1 != some c.2)

/-- `CART_SIZE`: the image's length rounded up to a power of two (R6, R77). No state has a length of 0 (R77, R506). -/
def cartSize (length : Nat) : Nat := if length ≤ 1 then 1 else 2 ^ (Nat.log2 (length - 1) + 1)

/-- The backing address of the cartridge byte at an offset of the window (R77). -/
def cartAddress (length off : Nat) : Nat := Config.cartStore + off % cartSize length

/-- Is this the backing address of a cartridge byte beyond the image (R77)? -/
def inCartPadding (length a : Nat) : Bool :=
  Config.cartStore + length ≤ a && a < Config.frameBufferStore

/-- The byte held at a backing address: the listed byte, or the fixed byte of an unlisted address. `none` where the byte
has no value of its own. -/
def State.heldByte (s : State) (a : Nat) : Option Byte :=
  match s.mem.get? a with
  | some b => some b
  | none => unlistedByte a

/-- The value a byte that holds `held` reads as; `lane` numbers the bytes of one access, so that the bytes of one drawn value
differ (R13). A frame-buffer byte nobody has written is drawn (R84), an SDRAM or on-chip byte nobody has written is fixed at
reset (R76, R470). -/
def State.valueOf (s : State) (a lane : Nat) (held : Option Byte) : Byte :=
  match held with
  | some b => b
  | none =>
    if inFrameBuffer a then (Config.draw s.draws).extractLsb' (8 * lane) 8
    else Config.initialByte s.epoch a

/-- The earlier values kept of a byte, since the core's last purge of it (R98). -/
def State.history (s : State) (a : Nat) : List (Option Byte) :=
  match s.stale.find? (fun e => e.key = a) with
  | none => []
  | some e => e.earlier

/-- Was the byte last written by another agent, or by the core around its cache (R98)? -/
def State.writtenAround (s : State) (a : Nat) : Bool :=
  match s.stale.find? (fun e => e.key = a) with
  | none => false
  | some e => e.foreign

/-- The earlier values that a read through the cached alias may see in place of the latest: none of a byte the core itself
wrote last (R98, R99). -/
def State.earlier (s : State) (a : Nat) : List (Option Byte) := if s.writtenAround a then s.history a else []

/-- What a byte that holds `now` is seen to hold: for a read that may see earlier values, that value or any of them (R98). -/
def State.pick (s : State) (cached : Bool) (a lane : Nat) (now : Option Byte) : Option Byte :=
  if cached then
    match s.earlier a with
    | [] => now
    | old :: olds => (now :: old :: olds).getD (Config.staleChoice s.draws lane % (olds.length + 2)) now
  else now

/-- The byte a read finds at a backing address. A cartridge byte beyond the image is any value (R77). -/
def State.readByte (s : State) (cached : Bool) (a lane : Nat) : Byte :=
  if inCartPadding s.cartLength a then Config.cartPadding a
  else s.valueOf a lane (s.pick cached a lane (s.heldByte a))

/-- Write bytes at their backing addresses. -/
def State.writeCells (s : State) (cs : List Host.Cell) : State :=
  { s with mem := s.mem.setCells cs }

/-- Take a byte's earlier values off the list. -/
def State.purgeByte (s : State) (a : Nat) : State :=
  { s with stale := s.stale.filter (fun e => e.key != a) }

/-- Under `CACHE_MODEL = stale_draw` the value a byte has before a write is kept as an earlier one; `foreign` says whether the
write goes around the core's cache (R98). -/
def State.keepEarlier (s : State) (foreign : Bool) (a : Nat) (now : Option Byte) : State :=
  match s.params.cacheModel with
  | .transparent => s
  | .staleDraw =>
    { s with stale := { key := a, earlier := now :: s.history a, foreign := foreign } :: (s.purgeByte a).stale }

/-- As `keepEarlier`, for the bytes about to be written. -/
def State.keepCells (s : State) (foreign : Bool) : List Host.Cell → State
  | [] => s
  | (a, _) :: cs => (s.keepEarlier foreign a (s.heldByte a)).keepCells foreign cs

/-- Write bytes at their backing addresses, their values before the write kept as earlier ones (R98). -/
def State.storeCells (s : State) (foreign : Bool) (cs : List Host.Cell) : State :=
  (s.keepCells foreign cs).writeCells cs

end Sys2Proof.Machine
end

