-- ==== Sys2Proof/Machine/Divu.lean ====
section
/-! DEFINITION. The division unit (60_exceptions R472 to R479). An operation completes inside the register write that starts
it (R475). -/

namespace Sys2Proof.Machine

/-- Does a signed value fit in 32 bits (R473, R474)? -/
def fitsWord (v : Int) : Bool := -2 ^ 31 ≤ v && v ≤ 2 ^ 31 - 1

/-- The saturated quotient of an overflow (R476): for a zero divisor the sign is the dividend's. -/
def saturatedQuotient (a b : Int) : Word :=
  let neg := if b = 0 then decide (a < 0) else decide (a < 0) != decide (b < 0)
  if neg then 0x80000000 else 0x7FFFFFFF

/-- `Overflow(a, b)` (R476): the flag, the saturated quotient, and a drawn remainder. -/
def State.divOverflow (s : State) (a b : Int) : State :=
  let d := s.divu
  let sat := saturatedQuotient a b
  { s with
    divu := { d with dvcr := withBit d.dvcr 0 true, dvdntl := sat, dvdnt := sat, dvdnth := drawWord s.draws }
    draws := s.draws + 1 }

/-- A signed division of `a` by `b`, quotient truncated toward zero (R473, R474). -/
def State.divide (s : State) (a b : Int) : State :=
  if b = 0 ∨ fitsWord (a.tdiv b) = false then s.divOverflow a b
  else
    let q := BitVec.ofInt 32 (a.tdiv b)
    { s with divu := { s.divu with dvdnt := q, dvdntl := q, dvdnth := BitVec.ofInt 32 (a.tmod b) } }

/-- A write of `v` to `DVDNT` starts the 32-bit division (R473). -/
def State.divide32 (s : State) (v : Word) : State := s.divide v.toInt s.divu.dvsr.toInt

/-- A write of `v` to `DVDNTL` starts the 64-bit division (R474). -/
def State.divide64 (s : State) (v : Word) : State :=
  s.divide (s.divu.dvdnth ++ v : BitVec 64).toInt s.divu.dvsr.toInt

end Sys2Proof.Machine
end

