-- ==== Sys2Proof/Machine/Intc.lean ====
section
/-! DEFINITION. The interrupt controller (60_exceptions R440 to R452): sources, levels, the current level, vectors, acceptance. -/

namespace Sys2Proof.Machine

/-- The ten sources (R440). -/
def allSources : List Source :=
  [.board .nmi, .board .vres, .board .vint, .board .hint, .board .cmd, .board .pwm,
   .divu, .dmac .ch0, .dmac .ch1, .wdt]

/-- `pending[s]` (R440). -/
def Pending.get (p : Pending) : Source → Bool
  | .board .nmi => p.nmi
  | .board .vres => p.vres
  | .board .vint => p.vint
  | .board .hint => p.hint
  | .board .cmd => p.cmd
  | .board .pwm => p.pwm
  | .divu => p.divu
  | .dmac .ch0 => p.dmac0
  | .dmac .ch1 => p.dmac1
  | .wdt => p.wdt

/-- `pending[s] <- b` (R442). -/
def Pending.put (p : Pending) (src : Source) (b : Bool) : Pending :=
  match src with
  | .board .nmi => { p with nmi := b }
  | .board .vres => { p with vres := b }
  | .board .vint => { p with vint := b }
  | .board .hint => { p with hint := b }
  | .board .cmd => { p with cmd := b }
  | .board .pwm => { p with pwm := b }
  | .divu => { p with divu := b }
  | .dmac .ch0 => { p with dmac0 := b }
  | .dmac .ch1 => { p with dmac1 := b }
  | .wdt => { p with wdt := b }

/-- `setPending(source, b)` (R442). -/
def State.setPending (s : State) (src : Source) (b : Bool) : State :=
  { s with intc := { s.intc with pending := s.intc.pending.put src b } }

/-- The level of a board source (R441). -/
def BoardSource.level : BoardSource → Nat
  | .nmi => 16
  | .vres => 14
  | .vint => 12
  | .hint => 10
  | .cmd => 8
  | .pwm => 6

/-- `level(s)`: for an on-chip source the field of `IPRA`, read each time (R441, R450, R451). -/
def Intc.level (i : Intc) : Source → Nat
  | .board b => b.level
  | .divu => (i.ipra.extractLsb' 12 4).toNat
  | .dmac _ => (i.ipra.extractLsb' 8 4).toNat
  | .wdt => (i.ipra.extractLsb' 4 4).toNat

/-- `valid[s]` (R444). -/
def Intc.valid (i : Intc) : Source → Bool
  | .board .nmi => true
  | .board .vres => true
  | .board .vint => i.mask.getLsbD 3
  | .board .hint => i.mask.getLsbD 2
  | .board .cmd => i.mask.getLsbD 1
  | .board .pwm => i.mask.getLsbD 0
  | src => 0 < i.level src

/-- `triggered[s] = valid[s] and pending[s]` (R440). -/
def Intc.triggered (i : Intc) (src : Source) : Bool := i.valid src && i.pending.get src

/-- The triggered sources (R440). -/
def Intc.triggeredSources (i : Intc) : List Source := allSources.filter i.triggered

/-- `currentLevel()`: the largest triggered level, 0 when nothing is triggered (R445). -/
def Intc.currentLevel (i : Intc) : Nat := (i.triggeredSources.map i.level).foldr max 0

/-- The triggered sources at a level (R449). -/
def Intc.sourcesAt (i : Intc) (level : Nat) : List Source :=
  i.triggeredSources.filter (fun src => i.level src = level)

/-- The source taken among those at the accepted level: with several the choice is free (R449). -/
def chooseSource (s : State) : List Source → Option (Source × State)
  | [] => none
  | [src] => some (src, s)
  | src :: more =>
    some ((src :: more).getD (Config.tieChoice s.draws % (more.length + 1)) src, { s with draws := s.draws + 1 })

/-- `vectorFor(source)`: the fixed formula for a board source, a vector register for an on-chip source (R441, R447); the
NMI's is the parameter `NMI_VECTOR` (R401). -/
def State.vectorFor (s : State) : Source → Nat
  | .board .nmi => s.params.nmiVector.toNat
  | .board b => 64 + b.level / 2
  | .divu => (s.divu.vcrdiv.extractLsb' 0 7).toNat
  | .dmac c => ((s.chan c).vcrdma.extractLsb' 0 8).toNat
  | .wdt => (s.intc.vcrwdt.extractLsb' 8 7).toNat

/-- `acceptCurrent(src)`: an on-chip source clears itself, a board source stays pending (R448). -/
def State.acceptSource (s : State) : Source → State
  | .board _ => s
  | src => s.setPending src false

/-- The source a clear register belongs to, by the offset of the access in the system registers (R446). Both bytes of a
register clear it (DEDUCED, log 14). An access is looked up by its first byte alone: that a longword write, where the map's size
policy admits one, lowers the source of its first two bytes only is a DESIGN CHOICE (log 28). -/
def clearTarget (off : Nat) : Option BoardSource :=
  if off = 0x14 ∨ off = 0x15 then some .vres
  else if off = 0x16 ∨ off = 0x17 then some .vint
  else if off = 0x18 ∨ off = 0x19 then some .hint
  else if off = 0x1A ∨ off = 0x1B then some .cmd
  else if off = 0x1C ∨ off = 0x1D then some .pwm
  else none

/-- Does an access at this offset of the system registers reach the low byte of the mask register (R443)? That a
longword access does not, where the map's size policy admits one, is a DESIGN CHOICE (log 28). -/
def reachesMask (off : Nat) (sz : Size) : Bool := (off = 0 ∧ sz = .word) ∨ (off = 1 ∧ sz = .byte)

end Sys2Proof.Machine
end

