-- ==== Sys2Proof/Machine/Wdt.lean ====
section
/-! DEFINITION. The watchdog timer (60_exceptions R480 to R489): the write protocol, the counting step, the overflow. -/

namespace Sys2Proof.Machine

/-- A protocol write to `WTCSR` (R482, R483): `OVF` can only be cleared, bits 4:3 read 1; clearing `TME` also clears the
counter and the prescaler (R488). -/
def Wdt.writeControl (w : Wdt) (v : Byte) : Wdt :=
  let csr := withBit (v ||| 0x18) 7 (w.wtcsr.getLsbD 7 && v.getLsbD 7)
  if v.getLsbD 5 then { w with wtcsr := csr } else { w with wtcsr := csr, wtcnt := 0, presc := 0 }

/-- A word write to 0xFFFF_FE80 (R482). -/
def Wdt.writeCounterPort (w : Wdt) (v : Word) : Wdt :=
  if v.extractLsb' 8 8 = 0xA5#8 then w.writeControl (v.extractLsb' 0 8)
  else if v.extractLsb' 8 8 = 0x5A#8 then { w with wtcnt := v.extractLsb' 0 8 }
  else w

/-- A word write to 0xFFFF_FE82 (R487): 0xA5 with bit 7 clear clears `WOVF`, 0x5A stores `RSTE` and `RSTS`; bits 4:0
read 1. -/
def Wdt.writeResetPort (w : Wdt) (v : Word) : Wdt :=
  if v.extractLsb' 8 8 = 0xA5#8 ∧ v.getLsbD 7 = false then { w with rstcsr := withBit w.rstcsr 7 false }
  else if v.extractLsb' 8 8 = 0x5A#8 then
    { w with rstcsr := (w.rstcsr &&& 0x80) ||| (v.extractLsb' 0 8 &&& 0x60) ||| 0x1F }
  else w

/-- A write that touches the four bytes of the WDT ports, at an offset of the on-chip block: the word writes of the protocol
act, every other write has no effect (R482, R487, U26; log 17). -/
def Wdt.writePort (w : Wdt) (off : Nat) (sz : Size) (v : Word) : Wdt :=
  if off = 0x80 ∧ sz = .word then w.writeCounterPort v
  else if off = 0x82 ∧ sz = .word then w.writeResetPort v
  else w

/-- Is the timer in watchdog mode: `WT/IT` (R483)? -/
def Wdt.watchdogMode (w : Wdt) : Bool := w.wtcsr.getLsbD 6

/-- Does an overflow raise the interrupt, by `WDT_IRQ_MODE` (R486)? -/
def wdtRaises (p : Params) (w : Wdt) : Bool :=
  match p.wdtIrqMode with
  | .watchdog => w.watchdogMode
  | .interval => !w.watchdogMode

/-- `WdtOverflow()` (R485 to R487): `OVF` is set; in watchdog mode `WOVF` too, and with `RSTE` set the reset is refused;
the interrupt is raised by mode. -/
def State.wdtOverflow (s : State) : Host.Outcome State Fault Refusal :=
  let w := s.wdt
  if w.watchdogMode && w.rstcsr.getLsbD 6 then .refused .watchdogReset
  else
    let w' := { w with
      wtcsr := withBit w.wtcsr 7 true
      rstcsr := if w.watchdogMode then withBit w.rstcsr 7 true else w.rstcsr }
    let s' := { s with wdt := w' }
    .next (if wdtRaises s.params w then s'.setPending .wdt true else s')

/-- `k` increments of the counter, each followed by the overflow when it reaches 0 (R484). -/
def State.wdtTicks : Nat → State → Host.Outcome State Fault Refusal
  | 0, s => .next s
  | k + 1, s =>
    let s' := { s with wdt := { s.wdt with wtcnt := s.wdt.wtcnt + 1 } }
    if s'.wdt.wtcnt = 0 then
      match s'.wdtOverflow with
      | .next s'' => State.wdtTicks k s''
      | .fault f => .fault f
      | .refused r => .refused r
    else State.wdtTicks k s'

/-- The divider `CKS` selects, `WDT_DIVIDER[CKS]` (R483). -/
def State.wdtDivider (s : State) : Nat := s.params.wdtDivider[(s.wdt.wtcsr.extractLsb' 0 3).toFin]

/-- The body of `WdtStep` for any number of cycles, such as those left over after an overflow (R484): the loop of the rule runs
once for every whole divider in the accumulated count. -/
def State.wdtRun (s : State) (cycles : Nat) : Host.Outcome State Fault Refusal :=
  if s.wdt.wtcsr.getLsbD 5 then
    let total := s.wdt.presc + cycles
    State.wdtTicks (total / s.wdtDivider) { s with wdt := { s.wdt with presc := total % s.wdtDivider } }
  else .next s

/-- `WdtStep(cycles)`: the timer's step, for a positive number of cycles (R484). -/
def State.wdtStep (s : State) (cycles : ℕ+) : Host.Outcome State Fault Refusal := s.wdtRun cycles

end Sys2Proof.Machine
end

