-- ==== Sys2Proof/Machine/OnChip.lean ====
section
/-! DEFINITION. The on-chip register block (60_exceptions R438, R439, R450, R456 to R460, R470, R472 to R478, R481, R482):
the map, and what a read and a write of each register do. -/

namespace Sys2Proof.Machine

/-- The registers of the map that one width and one address reach (R438). -/
inductive OnChipReg where
  | iprb
  | vcra
  | vcrb
  | vcrc
  | vcrd
  | drcr (c : Channel)
  | wtcsr
  | wtcnt
  | rstcsr
  | sbycr
  | ccr
  | icr
  | ipra
  | vcrwdt
  | dvsr
  | dvdnt
  | dvcr
  | vcrdiv
  | dvdnth
  | dvdntl
  | dvdntuh
  | dvdntul
  | sar (c : Channel)
  | dar (c : Channel)
  | tcr (c : Channel)
  | chcr (c : Channel)
  | vcrdma (c : Channel)
  | dmaor
deriving DecidableEq, Repr

/-- The map: a register, its offset in the block, its width (R438). -/
def onChipMap : List (OnChipReg × Nat × Size) :=
  [(.iprb, 0x60, .word), (.vcra, 0x62, .word), (.vcrb, 0x64, .word), (.vcrc, 0x66, .word), (.vcrd, 0x68, .word),
   (.drcr .ch0, 0x71, .byte), (.drcr .ch1, 0x72, .byte),
   (.wtcsr, 0x80, .byte), (.wtcnt, 0x81, .byte), (.rstcsr, 0x83, .byte),
   (.sbycr, 0x91, .byte), (.ccr, 0x92, .byte),
   (.icr, 0xE0, .word), (.ipra, 0xE2, .word), (.vcrwdt, 0xE4, .word),
   (.dvsr, 0x100, .long), (.dvdnt, 0x104, .long), (.dvcr, 0x108, .long), (.vcrdiv, 0x10C, .long),
   (.dvdnth, 0x110, .long), (.dvdntl, 0x114, .long), (.dvdntuh, 0x118, .long), (.dvdntul, 0x11C, .long),
   (.sar .ch0, 0x180, .long), (.dar .ch0, 0x184, .long), (.tcr .ch0, 0x188, .long), (.chcr .ch0, 0x18C, .long),
   (.sar .ch1, 0x190, .long), (.dar .ch1, 0x194, .long), (.tcr .ch1, 0x198, .long), (.chcr .ch1, 0x19C, .long),
   (.vcrdma .ch0, 0x1A0, .long), (.vcrdma .ch1, 0x1A8, .long), (.dmaor, 0x1B0, .long)]

/-- Do `n` bytes from `a` and `k` bytes from `b` share a byte? -/
def overlaps (a n b k : Nat) : Bool := a < b + k && b < a + n

/-- Does an access touch the four bytes of the WDT ports (R481, R482, R487)? -/
def touchesWdtPorts (off : Nat) (sz : Size) : Bool := overlaps off sz.bytes 0x80 4

/-- The register an access of its own width at its own address reaches (R439). -/
def registerAt (off : Nat) (sz : Size) : Option OnChipReg :=
  (onChipMap.find? (fun row => row.2.1 = off ∧ row.2.2 = sz)).map (·.1)

/-- Does an access touch a listed register (R439)? -/
def touchesRegister (off : Nat) (sz : Size) : Bool :=
  touchesWdtPorts off sz || onChipMap.any (fun row => overlaps off sz.bytes row.2.1 row.2.2.bytes)

/-- The hardware-driven bytes of absent modules, which read a fresh draw every time (R470). -/
def isVolatile (off : Nat) : Bool :=
  off ∈ [0x04, 0x05, 0x11, 0x12, 0x13, 0x18, 0x19] || (0x1F0 ≤ off && off ≤ 0x1F7)

/-- The values the DMA counter can hold: `TCR_MODULUS - 1` (R457). -/
def tcrMask (p : Params) : Word :=
  match p.tcrModulus with
  | .bits16 => 0xFFFF
  | .bits24 => 0xFFFFFF

/-- The value a read of a register returns, and the state after it (R439). Only reads of `ICR` bit 15 and of the DIVU's
shadow registers take a draw (R450, R478). -/
def State.readRegister (s : State) : OnChipReg → Word × State
  | .iprb => (s.intc.iprb.setWidth 32, s)
  | .vcra => (s.intc.vcra.setWidth 32, s)
  | .vcrb => (s.intc.vcrb.setWidth 32, s)
  | .vcrc => (s.intc.vcrc.setWidth 32, s)
  | .vcrd => (s.intc.vcrd.setWidth 32, s)
  | .drcr c => ((s.chan c).drcr.setWidth 32, s)
  | .wtcsr => (s.wdt.wtcsr.setWidth 32, s)
  | .wtcnt => (s.wdt.wtcnt.setWidth 32, s)
  | .rstcsr => (s.wdt.rstcsr.setWidth 32, s)
  | .sbycr => (s.sbycr.setWidth 32, s)
  | .ccr => (s.ccr.setWidth 32, s)
  | .icr =>
    (((withBit s.intc.icr 15 ((Config.draw s.draws).getLsbD 0)).setWidth 32), { s with draws := s.draws + 1 })
  | .ipra => (s.intc.ipra.setWidth 32, s)
  | .vcrwdt => (s.intc.vcrwdt.setWidth 32, s)
  | .dvsr => (s.divu.dvsr, s)
  | .dvdnt => (s.divu.dvdnt, s)
  | .dvcr => (s.divu.dvcr, s)
  | .vcrdiv => (s.divu.vcrdiv, s)
  | .dvdnth => (s.divu.dvdnth, s)
  | .dvdntl => (s.divu.dvdntl, s)
  | .dvdntuh => (drawWord s.draws, { s with draws := s.draws + 1 })
  | .dvdntul => (drawWord s.draws, { s with draws := s.draws + 1 })
  | .sar c => ((s.chan c).sar, s)
  | .dar c => ((s.chan c).dar, s)
  | .tcr c => ((s.chan c).tcr, s)
  | .chcr c => ((s.chan c).chcr, s)
  | .vcrdma c => ((s.chan c).vcrdma, s)
  | .dmaor => (s.dmaor, s)

/-- A flag at bit `i` that a write can only clear: the new value is the old and the written bit (R458, R460, R477). -/
def clearOnly {w : Nat} (old written : BitVec w) (i : Nat) : BitVec w :=
  withBit written i (old.getLsbD i && written.getLsbD i)

/-- A CPU write of `v` to a register (R439, R450, R456 to R460, R472 to R478). The WDT's registers are written through their
ports only (R482). -/
def State.writeRegister (s : State) (r : OnChipReg) (v : Word) : State :=
  match r with
  | .iprb => { s with intc := { s.intc with iprb := v.setWidth 16 &&& 0xFF00 } }
  | .vcra => { s with intc := { s.intc with vcra := v.setWidth 16 &&& 0x7F7F } }
  | .vcrb => { s with intc := { s.intc with vcrb := v.setWidth 16 &&& 0x7F7F } }
  | .vcrc => { s with intc := { s.intc with vcrc := v.setWidth 16 &&& 0x7F7F } }
  | .vcrd => { s with intc := { s.intc with vcrd := v.setWidth 16 &&& 0x7F7F } }
  | .drcr c => s.setChan c { s.chan c with drcr := v.setWidth 8 &&& 0x03 }
  | .wtcsr => s
  | .wtcnt => s
  | .rstcsr => s
  | .sbycr => { s with sbycr := v.setWidth 8 }
  | .ccr => { s with ccr := v.setWidth 8 }
  | .icr => { s with intc := { s.intc with icr := v.setWidth 16 &&& 0x0101 } }
  | .ipra => { s with intc := { s.intc with ipra := v.setWidth 16 &&& 0xFFF0 } }
  | .vcrwdt => { s with intc := { s.intc with vcrwdt := v.setWidth 16 &&& 0x7F7F } }
  | .dvsr => { s with divu := { s.divu with dvsr := v } }
  | .dvdnt => s.divide32 v
  | .dvcr => { s with divu := { s.divu with dvcr := clearOnly s.divu.dvcr (v &&& 0x3) 0 } }
  | .vcrdiv => { s with divu := { s.divu with vcrdiv := v &&& 0xFFFF } }
  | .dvdnth => { s with divu := { s.divu with dvdnth := v } }
  | .dvdntl => s.divide64 v
  | .dvdntuh => s
  | .dvdntul => s
  | .sar c => s.setChan c { s.chan c with sar := v }
  | .dar c => s.setChan c { s.chan c with dar := v }
  | .tcr c => s.setChan c { s.chan c with tcr := v &&& tcrMask s.params }
  | .chcr c => s.setChan c { s.chan c with chcr := clearOnly (s.chan c).chcr (v &&& 0xFFFF) 1 }
  | .vcrdma c => s.setChan c { s.chan c with vcrdma := v &&& 0xFF }
  | .dmaor => { s with dmaor := clearOnly s.dmaor (clearOnly s.dmaor (v &&& 0xF) 1) 2 }

/-- The bytes of a read of the block's byte storage (R470): a volatile byte is drawn, any other holds what was last
written or its byte fixed at reset. -/
def State.storageBytes (s : State) (off lane : Nat) : Nat → List Byte
  | 0 => []
  | n + 1 =>
    (if isVolatile off then (Config.draw s.draws).extractLsb' (8 * lane) 8
     else s.readByte false (Config.onChipStore + off) lane) :: s.storageBytes (off + 1) (lane + 1) n

/-- What an unmapped address, a refused access or a wrong access size reads as: a fault, or all ones under
`UNMAPPED = clamp` (R88, R439, D3). -/
def State.refusedRead (s : State) (kind : AccessKind) (ag : Agent) (sz : Size) (addr : Word) : Except Fault (Word × State) :=
  match s.params.unmapped with
  | .fault => .error (.busPolicy addr sz kind ag)
  | .clamp => .ok (truncate sz 0xFFFFFFFF, s)

/-- What a write to an unmapped address, a refused write or a write of a wrong size does: a fault, or nothing under
`UNMAPPED = clamp` (R88, R439, D3). -/
def State.refusedWrite (s : State) (kind : AccessKind) (ag : Agent) (sz : Size) (addr : Word) : Except Fault State :=
  match s.params.unmapped with
  | .fault => .error (.busPolicy addr sz kind ag)
  | .clamp => .ok s

/-- A read of the block by the node's own core, at an offset (R439, R470, R481). That a wrong size clamps under
`UNMAPPED = clamp` is DEDUCED (log 18). -/
def State.onChipRead (s : State) (sz : Size) (addr : Word) (off : Nat) : Except Fault (Word × State) :=
  match registerAt off sz with
  | some r => .ok (s.readRegister r)
  | none =>
    if touchesRegister off sz then s.refusedRead .size .core sz addr
    else
      let v := beValue (s.storageBytes off 0 sz.bytes)
      .ok (v, if (List.range sz.bytes).any (fun i => isVolatile (off + i)) then { s with draws := s.draws + 1 } else s)

/-- A write of the block by the node's own core, at an offset (R439, R470, R482). -/
def State.onChipWrite (s : State) (sz : Size) (addr : Word) (off : Nat) (v : Word) : Except Fault State :=
  if touchesWdtPorts off sz then .ok { s with wdt := s.wdt.writePort off sz v }
  else
    match registerAt off sz with
    | some r => .ok (s.writeRegister r v)
    | none =>
      if touchesRegister off sz then s.refusedWrite .size .core sz addr
      else .ok (s.writeCells (cellsAt (Config.onChipStore + off) (beBytes sz v)))

end Sys2Proof.Machine
end

