-- ==== Sys2Proof/Machine/Bus.lean ====
section
/-! DEFINITION. The address-space decoder and the memory primitives (20_memory R60 to R88; 00_scope R13): `MemRead` and
`MemWrite` for the node's core and its DMA channels. -/

namespace Sys2Proof.Machine

/-- The regions of the map (R74). -/
inductive Region where
  | bootRom
  | system
  | video
  | palette
  | cart
  | frameBuffer
  | over
  | sdram
deriving DecidableEq, Repr

/-- A row of the region table: base, size in bytes, the sizes a read and a write may have (R74). -/
structure RegionRow where
  region : Region
  base : Nat
  size : Nat
  reads : List Size
  writes : List Size
deriving DecidableEq, Repr

/-- A region's place and size policy as a row of the table. -/
def windowRow (r : Region) (w : Window) : RegionRow := ⟨r, w.base, w.size, w.reads, w.writes⟩

/-- `BOOTROM_SIZE[node]` (R6, R74). -/
def bootRomSize (p : Params) : Nat :=
  match p.coreId with
  | .master => p.layout.bootRomSizeMaster
  | .slave => p.layout.bootRomSizeSlave

/-- The region table, applied to the significant bits of the address (R74). -/
def regionTable (p : Params) : List RegionRow :=
  [⟨.bootRom, p.layout.bootRomBase, bootRomSize p, anySize, []⟩,
   windowRow .system p.layout.system,
   windowRow .video p.layout.video,
   windowRow .palette p.layout.palette,
   windowRow .cart p.layout.cart,
   windowRow .frameBuffer p.layout.frameBuffer,
   windowRow .over p.layout.overRegion,
   ⟨.sdram, p.layout.sdramBase, p.layout.sdramSize, anySize, anySize⟩]

/-- Does an address lie in a row (R72 step 4)? -/
def RegionRow.holds (row : RegionRow) (a : Nat) : Bool := row.base ≤ a && a < row.base + row.size

/-- Where the decoder routes an access (R72). -/
inductive Place where
  | onChip (off : Nat)
  | purge
  | region (r : Region) (off : Nat)
  | unmapped
  | policyViolation
deriving DecidableEq, Repr

/-- The significant bits of an address, 28 by default (R72 step 3). -/
def regionAddress (p : Params) (addr : Word) : Nat := addr.toNat % 2 ^ p.layout.addrSigBits

/-- The address bits that select an alias (R73). -/
def aliasBits (addr : Word) : BitVec 3 := addr.extractLsb' 29 3

/-- The row of the region table an address lies in (R72 step 4). -/
def regionRow (p : Params) (addr : Word) : Option RegionRow :=
  (regionTable p).find? (fun row => row.holds (regionAddress p addr))

/-- `Decode(node, addr, n, kind)`, steps 2 to 5 (R72). `kind` is read or write. -/
def decodeRegion (p : Params) (addr : Word) (sz : Size) (kind : AccessKind) : Place :=
  if aliasBits addr = 0b010#3 then .purge
  else if aliasBits addr = 0b000#3 ∨ aliasBits addr = 0b001#3 then
    match regionRow p addr with
    | none => .unmapped
    | some row =>
      if sz ∈ (if kind = .write then row.writes else row.reads) then
        .region row.region (regionAddress p addr - row.base)
      else .policyViolation
  else .unmapped

/-- Does an address lie in the on-chip block, 512 bytes at `ONCHIP_BASE` (R72 step 1, R78)? -/
def inOnChipBlock (p : Params) (addr : Word) : Bool :=
  p.layout.onChipBase ≤ addr.toNat && addr.toNat < p.layout.onChipBase + 512

/-- `Decode(node, addr, n, kind)` (R72): the on-chip block first; for a DMA channel the block is Unmapped (R78). -/
def decodeAddress (p : Params) (ag : Agent) (addr : Word) (sz : Size) (kind : AccessKind) : Place :=
  if inOnChipBlock p addr then
    if ag = .core then .onChip (addr.toNat - p.layout.onChipBase) else .unmapped
  else decodeRegion p addr sz kind

/-- Is the address a multiple of the access size (R63)? -/
def aligned (sz : Size) (addr : Word) : Bool := addr.toNat % sz.bytes = 0

/-- The backing address of the byte at an offset of a region whose bytes are held (R75, R76, R77, R80, R81). -/
def backing (cartLength : Nat) (r : Region) (off : Nat) : Option Nat :=
  match r with
  | .bootRom => some (Config.bootRomStore + off)
  | .cart => some (cartAddress cartLength off)
  | .frameBuffer => some (Config.frameBufferStore + off)
  | .over => some (Config.frameBufferStore + off)
  | .sdram => some (Config.sdramStore + off)
  | .system => none
  | .video => none
  | .palette => none

/-- May a read see earlier values: a read of the core through the cached alias, under `CACHE_MODEL = stale_draw` (R98)? A
channel and the cache-through alias reach the store itself. -/
def seesEarlier (p : Params) (ag : Agent) (addr : Word) : Bool :=
  decide (p.cacheModel = .staleDraw) && decide (ag = .core) && decide (aliasBits addr = 0b000#3)

/-- Does a write go around the core's cache: a write of another agent, or of the core through another alias (R98)? -/
def aroundCache (ag : Agent) (addr : Word) : Bool := !(decide (ag = .core) && decide (aliasBits addr = 0b000#3))

/-- The bytes of a read of held bytes; each byte's backing address is found on its own, since the cartridge is mirrored
(R77). -/
def State.regionBytes (s : State) (cached : Bool) (r : Region) (off lane : Nat) : Nat → List Byte
  | 0 => []
  | n + 1 =>
    (match backing s.cartLength r off with
     | some a => s.readByte cached a lane
     | none => (Config.draw s.draws).extractLsb' (8 * lane) 8) :: s.regionBytes cached r (off + 1) (lane + 1) n

/-- The interrupt mask register as a byte (R443). -/
def State.maskByte (s : State) : Byte := s.intc.mask.setWidth 8

/-- The four mask bits a read sees (R443, R98). -/
def State.seenMask (s : State) (cached : Bool) : Word :=
  (((s.pick cached Config.maskStore 0 (some s.maskByte)).getD s.maskByte).setWidth 4).setWidth 32

/-- Does a read of the region use up a draw: the external regions (R84)? -/
def Region.drawn : Region → Bool
  | .system => true
  | .video => true
  | .palette => true
  | .frameBuffer => true
  | .over => true
  | .bootRom => false
  | .cart => false
  | .sdram => false

/-- The value a read of a region returns, big-endian (R60). In the system registers the four bits of the interrupt mask
register are the node's own (R443); everything else there, in the video registers and the palette is drawn (R84). R443 says
this of the node's core; that a DMA channel of the node reads its node's four bits there too is a DESIGN CHOICE (log 14), and
so is it that a longword read, where the size policy admits one, draws them (log 28). -/
def State.regionValue (s : State) (cached : Bool) (r : Region) (sz : Size) (off : Nat) : Word :=
  let v := beValue (s.regionBytes cached r off 0 sz.bytes)
  if r = .system ∧ reachesMask off sz then (v &&& ~~~(0xF : Word)) ||| s.seenMask cached else v

/-- A read that may see earlier values (`cached`) or reaches the store itself: the big-endian value, zero-extended to 32 bits,
and the state after it (R13, R60, R64, R66, R72, R98). A read of the purge alias is Unmapped (R82). -/
def memReadVia (cached : Bool) (ag : Agent) (sz : Size) (addr : Word) (s : State) : Except Fault (Word × State) :=
  if aligned sz addr then
    match decodeAddress s.params ag addr sz .read with
    | .onChip off => s.onChipRead sz addr off
    | .region r off =>
      .ok (s.regionValue cached r sz off, if r.drawn || cached then { s with draws := s.draws + 1 } else s)
    | .purge => s.refusedRead .read ag sz addr
    | .unmapped => s.refusedRead .read ag sz addr
    | .policyViolation => s.refusedRead .read ag sz addr
  else .error (.addressError addr sz ag)

/-- `MemRead(addr, n)` by an agent (R13, R98). -/
def memRead (ag : Agent) (sz : Size) (addr : Word) (s : State) : Except Fault (Word × State) :=
  memReadVia (seesEarlier s.params ag addr) ag sz addr s

/-- `MemRead(addr, n)` by the core around its cache: the read of `TAS.B` (R258). -/
def memReadUncached (sz : Size) (addr : Word) (s : State) : Except Fault (Word × State) :=
  memReadVia false .core sz addr s

/-- A write to the system registers (R443, R446): the low byte of the mask register sets the node's mask; a core's write to
a clear register lowers its source; everything else there is external (R84). That a DMA channel's write of the mask register
reaches the node's copy is a DESIGN CHOICE (log 14). A longword write, which R443 and R446 do not speak of and which only a
changed size policy of R74 admits, misses the mask register and lowers the source of the clear register at its address alone,
not of the one two bytes on: DESIGN CHOICE (log 28). -/
def State.systemWrite (s : State) (ag : Agent) (foreign : Bool) (sz : Size) (off : Nat) (v : Word) : State :=
  if reachesMask off sz then
    let s' := s.keepEarlier foreign Config.maskStore (some s.maskByte)
    { s' with intc := { s'.intc with mask := v.setWidth 4 } }
  else
    match clearTarget off with
    | some b => if ag = .core then s.setPending (.board b) false else s
    | none => s

/-- The bytes a write stores and where: in the over region each byte that is 0 is skipped (R81); boot ROM, cartridge and
the external registers hold no written byte (R75, R77, R84). -/
def writtenCells (r : Region) (sz : Size) (off : Nat) (v : Word) : List Host.Cell :=
  match r with
  | .sdram => cellsAt (Config.sdramStore + off) (beBytes sz v)
  | .frameBuffer => cellsAt (Config.frameBufferStore + off) (beBytes sz v)
  | .over => (cellsAt (Config.frameBufferStore + off) (beBytes sz v)).filter (fun c => c.2 != 0)
  | .bootRom => []
  | .cart => []
  | .system => []
  | .video => []
  | .palette => []

/-- A write to a region. -/
def State.regionWrite (s : State) (ag : Agent) (foreign : Bool) (r : Region) (sz : Size) (off : Nat) (v : Word) : State :=
  match r with
  | .system => s.systemWrite ag foreign sz off v
  | r => s.storeCells foreign (writtenCells r sz off v)

/-- The place in the memory list of a byte an address reaches, for a purge: a held byte, or the mask register. -/
def purgeKey (cartLength : Nat) (r : Region) (off : Nat) : Option Nat :=
  if r = .system ∧ off = 1 then some Config.maskStore else backing cartLength r off

/-- Take the earlier values of the bytes at `n` offsets of a region off the list. -/
def State.purgeBytes (s : State) (r : Region) (off : Nat) : Nat → State
  | 0 => s
  | n + 1 =>
    (match purgeKey s.cartLength r off with
     | some a => s.purgeByte a
     | none => s).purgeBytes r (off + 1) n

/-- A write to the purge alias stores nothing (R82). Under `CACHE_MODEL = stale_draw` the core's next reads through the cached
alias of the bytes it covers see no value from before it (R98). -/
def State.purgeWrite (s : State) (ag : Agent) (sz : Size) (addr : Word) : State :=
  match s.params.cacheModel, ag with
  | .staleDraw, .core =>
    match regionRow s.params addr with
    | some row => s.purgeBytes row.region (regionAddress s.params addr - row.base) sz.bytes
    | none => s
  | _, _ => s

/-- `MemWrite(addr, n, v)` by an agent: stores the low `8n` bits of `v` (R13, R60, R64, R72). A write to the purge alias is
discarded (R82). -/
def memWrite (ag : Agent) (sz : Size) (addr : Word) (v : Word) (s : State) : Except Fault State :=
  if aligned sz addr then
    match decodeAddress s.params ag addr sz .write with
    | .onChip off => s.onChipWrite sz addr off v
    | .region r off => .ok (s.regionWrite ag (aroundCache ag addr) r sz off v)
    | .purge => .ok (s.purgeWrite ag sz addr)
    | .unmapped => s.refusedWrite .write ag sz addr
    | .policyViolation => s.refusedWrite .write ag sz addr
  else .error (.addressError addr sz ag)

end Sys2Proof.Machine
end

