-- ==== Sys2Proof/Machine/Dmac.lean ====
section
/-! DEFINITION. The DMA controller's transfer step (60_exceptions R455 to R468). -/

namespace Sys2Proof.Machine

/-- `request(n)`: auto-request, or the external line selected and high (R459, R462). -/
def DmaChannel.request (d : DmaChannel) : Bool :=
  d.chcr.getLsbD 9 || (d.drcr.extractLsb' 0 2 == 0 && d.extTrigger)

/-- `active(n)` (R462): the in-progress flag of 10_state R47, derived. -/
def State.dmaActive (s : State) (c : Channel) : Bool :=
  let d := s.chan c
  d.chcr.getLsbD 0 && s.dmaor.getLsbD 0 && !d.chcr.getLsbD 1 && !s.dmaor.getLsbD 1 && !s.dmaor.getLsbD 2 && d.request

/-- The access size of a unit, `TS` (R458, R463): the 16-byte unit moves longwords. -/
def DmaChannel.unitSize (d : DmaChannel) : Size :=
  if d.chcr.extractLsb' 10 2 = 0#2 then .byte
  else if d.chcr.extractLsb' 10 2 = 1#2 then .word
  else .long

/-- How many `DmaUnit`s one unit is: four for the 16-byte class (R463). -/
def DmaChannel.unitCount (d : DmaChannel) : Nat := if d.chcr.extractLsb' 10 2 = 3#2 then 4 else 1

/-- `delta(mode)` (R458, R463); `none` for the reserved mode. -/
def modeDelta (mode : BitVec 2) (sz : Size) : Option Word :=
  if mode = 0#2 then some 0
  else if mode = 1#2 then some (BitVec.ofNat 32 sz.bytes)
  else if mode = 2#2 then some (0 - BitVec.ofNat 32 sz.bytes)
  else none

/-- `SM` (R458). -/
def DmaChannel.sourceMode (d : DmaChannel) : BitVec 2 := d.chcr.extractLsb' 12 2

/-- `DM` (R458). -/
def DmaChannel.destMode (d : DmaChannel) : BitVec 2 := d.chcr.extractLsb' 14 2

/-- `Complete(n)` (R464): `TE` is set, and the completion interrupt raised if `IE` is set. -/
def State.dmaComplete (s : State) (c : Channel) : State :=
  let s' := s.setChan c { s.chan c with chcr := withBit (s.chan c).chcr 1 true }
  if (s.chan c).chcr.getLsbD 2 then s'.setPending (.dmac c) true else s'

/-- The registers after one `DmaUnit`: the addresses stepped, the count less one (R463). -/
def DmaChannel.stepped (d : DmaChannel) (p : Params) (sourceDelta destDelta : Word) : DmaChannel :=
  { d with sar := d.sar + sourceDelta, dar := d.dar + destDelta, tcr := (d.tcr - 1) &&& tcrMask p }

/-- `DmaUnit(n)` (R463): the read precedes the write, nothing falls between them (R465, "a unit in progress is never cut";
log 23), then the addresses and the count step, then completion. A fault leaves
the channel as it was (R466); a reserved address mode is `fault BusPolicy` (R458; log 23). -/
def dmaUnit (c : Channel) (s : State) : Except Fault State :=
  let d := s.chan c
  let sz := d.unitSize
  match modeDelta d.sourceMode sz, modeDelta d.destMode sz with
  | none, _ => .error (.busPolicy d.sar sz .read (.dmac c))
  | some _, none => .error (.busPolicy d.dar sz .write (.dmac c))
  | some ds, some dd =>
    match memRead (.dmac c) sz d.sar s with
    | .error f => .error f
    | .ok (v, s1) =>
      match memWrite (.dmac c) sz d.dar v s1 with
      | .error f => .error f
      | .ok s2 =>
        let s3 := s2.setChan c ((s2.chan c).stepped s2.params ds dd)
        .ok (if (s3.chan c).tcr = 0 then s3.dmaComplete c else s3)

/-- `k` `DmaUnit`s in a row, stopping when the channel completes (R463). -/
def dmaUnits (c : Channel) : Nat → State → Except Fault State
  | 0, s => .ok s
  | k + 1, s =>
    match dmaUnit c s with
    | .error f => .error f
    | .ok s' => if (s'.chan c).chcr.getLsbD 1 then .ok s' else dmaUnits c k s'

/-- One step of a channel: `DMA_UNITS_PER_STEP` units, each indivisible (R463); an inactive channel takes no transfer step
(R462, R465), so its turn changes nothing (log 23). -/
def dmaMove (c : Channel) (s : State) : Except Fault State :=
  if s.dmaActive c then dmaUnits c (s.params.dmaUnitsPerStep.val * (s.chan c).unitCount) s
  else .ok s

end Sys2Proof.Machine
end

