-- ==== Sys2Proof/Machine/Moves.lean ====
section
/-! DEFINITION. What each agent other than the node's core does on its move (20_memory R92, R93), and the moves that fall
between two memory events of one instruction (R68, R94). -/

namespace Sys2Proof.Machine

/-- The outcome of a step of this machine. -/
abbrev Result := Host.Outcome State Fault Refusal

/-- Go on with the next state, or stop as before. -/
def andThen (o : Result) (k : State → Result) : Result :=
  match o with
  | .next s => k s
  | .fault f => .fault f
  | .refused r => .refused r

/-- A controller's step as an outcome. -/
def ofExcept : Except Fault State → Result
  | .ok s => .next s
  | .error f => .fault f

/-- The frame-buffer bytes are forgotten: their values belong to the other bank (R80, R84). -/
def State.swapBank (s : State) : State :=
  { s with fbBank := !s.fbBank, mem := s.mem.filter (fun c => !inFrameBuffer c.1) }

/-- A byte written by the Host to the writable bank; an offset outside the window is no byte of it (R84, R93). -/
def State.hostFrameWrite (s : State) (off : Nat) (v : Byte) : State :=
  if off < s.params.layout.frameBuffer.size then s.storeCells true [(Config.frameBufferStore + off, v)] else s

/-- A write of the other node: only an aligned write that reaches a shared store whose bytes are held is visible to this
node (R76, R80, R81, R92, R94; log 21). -/
def State.otherNodeWrite (s : State) (sz : Size) (addr v : Word) : State :=
  if aligned sz addr && !inOnChipBlock s.params addr then
    match decodeRegion s.params addr sz .write with
    | .region r off => s.storeCells true (writtenCells r sz off v)
    | _ => s
  else s

/-- The move of an agent other than the core (R92, R93). -/
def moveStep (m : Move) (s : State) : Result :=
  match m with
  | .dma c => ofExcept (dmaMove c s)
  | .wdt cycles => s.wdtStep cycles
  | .hostRaise b => .next (s.setPending (.board b) true)
  | .hostTrigger c v => .next (s.setChan c { s.chan c with extTrigger := v })
  | .hostBankSwap => .next s.swapBank
  | .hostFrameBuffer off v => .next (s.hostFrameWrite off v)
  | .otherNode addr sz v => .next (s.otherNodeWrite sz addr v)

/-- Moves one after another. -/
def moveSteps : List Move → State → Result
  | [], s => .next s
  | m :: ms, s => andThen (moveStep m s) (moveSteps ms)

/-- A point between two memory events of one instruction, where other agents may move (R68, R94): the moves of the next batch
of `State.inside`, and none when it is empty (log 20). The core samples no interrupt here (R410). -/
def interpose (s : State) : Result :=
  match s.inside with
  | [] => .next s
  | batch :: rest => moveSteps batch { s with inside := rest }

end Sys2Proof.Machine
end

