-- ==== Sys2Proof/Machine/Ops.lean ====
section
/-! DEFINITION. The shared operations of the meanings: ends of an instruction, loads and stores, the delayed branch
(44_branch R291), taking an exception (60_exceptions R404) and returning from one (45_system R345). -/

namespace Sys2Proof.Machine

/-- The end of a rule that does not assign `pc` (R25). -/
def done (s : State) : Result := .next s.advance

/-- Write a register and end (R11, R25). -/
def writeReg (n : Reg) (v : Word) (s : State) : Result := done (s.setReg n v)

/-- Write `T` and end. -/
def writeT (b : Bool) (s : State) : Result := done (s.setT b)

/-- Write a register and `T` and end. -/
def writeRegT (n : Reg) (r : Word × Bool) (s : State) : Result := done ((s.setReg n r.1).setT r.2)

/-- A data read of the core; a fault stops the instruction (R13, R140(c)). -/
def loadThen (sz : Size) (ea : Word) (s : State) (k : Word → State → Result) : Result :=
  match memRead .core sz ea s with
  | .ok (v, s') => k v s'
  | .error f => .fault f

/-- As `loadThen`, around the core's cache (R258). -/
def loadUncachedThen (sz : Size) (ea : Word) (s : State) (k : Word → State → Result) : Result :=
  match memReadUncached sz ea s with
  | .ok (v, s') => k v s'
  | .error f => .fault f

/-- A data write of the core; a fault stops the instruction (R13, R140(c)). -/
def storeThen (sz : Size) (ea v : Word) (s : State) (k : State → Result) : Result :=
  match memWrite .core sz ea v s with
  | .ok s' => k s'
  | .error f => .fault f

/-- A loaded value as a register holds it: bytes and words are sign-extended (R66, R140(e)). -/
def extend : Size → Word → Word
  | .byte, v => sext8 v
  | .word, v => sext16 v
  | .long, v => v

/-- `R[n] <- sext(MemRead(ea, size))` (R148 to R150). -/
def loadReg (sz : Size) (ea : Word) (n : Reg) (s : State) : Result :=
  loadThen sz ea s (fun v s' => writeReg n (extend sz v) s')

/-- `R[m] <- R[m] + size` unless `n = m`, then `R[n] <- v` (R154 to R156). -/
def loadRegInc (sz : Size) (m n : Reg) (s : State) : Result :=
  loadThen sz (s.reg m) s (fun v s' =>
    let s'' := if n = m then s' else s'.setReg m (s'.reg m + BitVec.ofNat 32 sz.bytes)
    writeReg n (extend sz v) s'')

/-- `MemWrite(ea, size, v)` (R145 to R147). -/
def store (sz : Size) (ea v : Word) (s : State) : Result := storeThen sz ea v s done

/-- `MemWrite(R[n] - size, size, v); R[n] <- R[n] - size`, `v` read before `R[n]` is changed (R151 to R153). -/
def storeDec (sz : Size) (n : Reg) (v : Word) (s : State) : Result :=
  let ea := s.reg n - BitVec.ofNat 32 sz.bytes
  storeThen sz ea v s (fun s' => writeReg n ea s')

/-- `v <- MemRead(R[m], 4); R[m] <- R[m] + 4`, and `v` to a control or system register (R326 to R334). -/
def popInto (m : Reg) (put : State → Word → State) (s : State) : Result :=
  loadThen .long (s.reg m) s (fun v s' => done (put (s'.setReg m (s'.reg m + 4)) v))

/-- One read of a byte, then one write of the same byte; other agents may move between the two (R66, R68, R250(d)). -/
def modifyByte (ea : Word) (f : Word → Word) (s : State) : Result :=
  loadThen .byte ea s (fun b s' => andThen (interpose s') (store .byte ea (f b)))

/-- An instruction that writes `pc` has no effect in a delay slot but `fault SlotIllegal` (R293). -/
def outsideSlot (s : State) (k : Result) : Result :=
  match s.delaySlot with
  | none => k
  | some _ => .fault (.slotIllegal s.pc)

/-- `DelayedBranch(target)` up to the slot: the target is latched, `in_slot` is set and `pc` is the slot's address. The
sequencer runs the slot instruction in the same step and then commits the target (R291; log 13). -/
def delayedBranch (target : Word) (s : State) : Result :=
  .next { s with delaySlot := some target, pc := s.pc + 2 }

/-- A taken branch without a delay slot (R25). -/
def jump (target : Word) (s : State) : Result := .next { s with pc := target }

/-- The end of a delayed branch: the latched target becomes `pc` and `in_slot` is cleared (R291). -/
def State.commitBranch (s : State) : State :=
  match s.delaySlot with
  | none => s
  | some target => { s with pc := target, delaySlot := none }

/-- `R[15] <- R[15] - 4; MemWrite(R[15], 4, v)` (R404). -/
def pushThen (v : Word) (s : State) (k : State → Result) : Result :=
  let sp := s.reg 15 - 4
  storeThen .long sp v (s.setReg 15 sp) k

/-- `v <- MemRead(R[15], 4); R[15] <- R[15] + 4` (R345). -/
def popThen (s : State) (k : Word → State → Result) : Result :=
  loadThen .long (s.reg 15) s (fun v s' => k v (s'.setReg 15 (s'.reg 15 + 4)))

/-- Where the handler address of a vector lies: `VBR + 4 * vector` (R401). -/
def vectorAddress (s : State) (vector : Nat) : Word := s.vbr + BitVec.ofNat 32 (4 * vector)

/-- `if new_imask present then IMASK <- new_imask` (R404). -/
def State.withMask (s : State) : Option (BitVec 4) → State
  | none => s
  | some level => s.setImask level

/-- `Enter(vector, saved_pc, new_imask)`: taking an exception (R404). `SR` as it was, then the saved `PC`, are pushed on
`R15`; an interrupt sets `IMASK`; `pc` becomes the longword of the vector. Other agents may move between the three accesses
(R94). -/
def enter (vector : Nat) (savedPc : Word) (newImask : Option (BitVec 4)) (s : State) : Result :=
  pushThen s.sr s (fun s1 => andThen (interpose s1) (fun s2 =>
    pushThen savedPc s2 (fun s3 => andThen (interpose (s3.withMask newImask)) (fun s4 =>
      loadThen .long (vectorAddress s4 vector) s4 (fun handler s5 => jump handler s5)))))

/-- The illegal-instruction exception: vector 4, the address of the illegal opcode saved, `IMASK` unchanged (R352, R405). -/
def raiseIllegal (s : State) : Result := enter 4 s.pc none s

/-- Returning from an exception: the saved `PC` and then the saved `SR` are popped, and control goes to the saved `PC`
by a delayed branch (R345). Other agents may move between the two pops (R94). -/
def returnFromException (s : State) : Result :=
  popThen s (fun target s1 => andThen (interpose s1) (fun s2 =>
    popThen s2 (fun v s3 => delayedBranch target (s3.setSr v))))

end Sys2Proof.Machine
end

