-- ==== Sys2Proof/Machine/Flags.lean ====
section
/-! DEFINITION. Every result with a flag (41_arithmetic, 43_shift): the 32-bit result first, the new `T` second. Carry, borrow
and overflow compare the exact sum with the range of the result. -/

namespace Sys2Proof.Machine

/-- `ADDC`: the sum with `T`, and the carry out (R203). -/
def addCarry (a b : Word) (t : Bool) : Word × Bool :=
  let s := a.toNat + b.toNat + t.toNat
  (BitVec.ofNat 32 s, decide (2 ^ 32 ≤ s))

/-- Is an exact integer outside the signed 32-bit range (R204, R233)? -/
def outOfRange (v : Int) : Bool := decide (v < -2 ^ 31 ∨ 2 ^ 31 - 1 < v)

/-- `ADDV`: the sum, and signed overflow (R204). -/
def addOverflow (a b : Word) : Word × Bool :=
  let s := a.toInt + b.toInt
  (BitVec.ofInt 32 s, outOfRange s)

/-- `SUBC`, and `NEGC` with `a = 0`: the difference less `T`, and the borrow (R230, R232). -/
def subBorrow (a b : Word) (t : Bool) : Word × Bool :=
  let d : Int := (a.toNat : Int) - (b.toNat : Int) - (t.toNat : Int)
  (BitVec.ofInt 32 d, decide (d < 0))

/-- `SUBV`: the difference, and signed overflow (R233). -/
def subOverflow (a b : Word) : Word × Bool :=
  let d := a.toInt - b.toInt
  (BitVec.ofInt 32 d, outOfRange d)

/-- `CMP/HS`: `a >=u b` (R207). -/
def higherOrSame (a b : Word) : Bool := decide (b.toNat ≤ a.toNat)

/-- `CMP/HI`: `a >u b` (R209). -/
def higher (a b : Word) : Bool := decide (b.toNat < a.toNat)

/-- `CMP/GE`: `a >=s b` (R208). -/
def greaterOrEqual (a b : Word) : Bool := decide (b.toInt ≤ a.toInt)

/-- `CMP/GT`: `a >s b` (R210). -/
def greater (a b : Word) : Bool := decide (b.toInt < a.toInt)

/-- `CMP/STR`: is any of the four byte lanes equal (R213)? -/
def anyByteEqual (a b : Word) : Bool :=
  let x := a ^^^ b
  x.extractLsb' 24 8 == 0 || x.extractLsb' 16 8 == 0 || x.extractLsb' 8 8 == 0 || x.extractLsb' 0 8 == 0

/-- `TST`: is the conjunction zero (R259)? -/
def testZero (a b : Word) : Bool := (a &&& b) == 0

/-- `DT`: one less, and whether that is zero (R219). -/
def decrementTest (a : Word) : Word × Bool := (a - 1, a - 1 == 0)

/-- What one step of non-restoring division leaves (R214). -/
structure DivStep where
  result : Word
  q : Bool
  t : Bool
deriving DecidableEq, Repr

/-- `DIV1`: one step with partial remainder `a`, divisor `b` and the old `Q`, `M`, `T` (R214). -/
def divStep (a b : Word) (q m t : Bool) : DivStep :=
  let v := (a <<< 1) ||| boolWord t
  let r := if q = m then v - b else v + b
  let c := if q = m then decide (v.toNat < b.toNat) else decide (2 ^ 32 ≤ v.toNat + b.toNat)
  let q' := a.getLsbD 31 ^^ m ^^ c
  { result := r, q := q', t := q' == m }

/-- `ROTL` (R271). -/
def rotl (a : Word) : Word × Bool := ((a <<< 1) ||| boolWord (a.getLsbD 31), a.getLsbD 31)

/-- `ROTR` (R272). -/
def rotr (a : Word) : Word × Bool := ((a >>> 1) ||| (boolWord (a.getLsbD 0) <<< 31), a.getLsbD 0)

/-- `ROTCL` (R273). -/
def rotcl (a : Word) (t : Bool) : Word × Bool := ((a <<< 1) ||| boolWord t, a.getLsbD 31)

/-- `ROTCR` (R274). -/
def rotcr (a : Word) (t : Bool) : Word × Bool := ((a >>> 1) ||| (boolWord t <<< 31), a.getLsbD 0)

/-- `SHLL` and `SHAL`: one bit left, the old bit 31 out (R275, R277). -/
def shiftLeftOut (a : Word) : Word × Bool := (a <<< 1, a.getLsbD 31)

/-- `SHLR`: one bit right, the old bit 0 out (R278). -/
def shiftRightOut (a : Word) : Word × Bool := (a >>> 1, a.getLsbD 0)

/-- `SHAR`: one bit right with bit 31 replicated, the old bit 0 out (R276). -/
def shiftArithOut (a : Word) : Word × Bool := (a.sshiftRight 1, a.getLsbD 0)

/-- `clamp(v, -2^47, 2^47 - 1)` (R224). -/
def clamp48 (v : Int) : Int := max (-2 ^ 47) (min v (2 ^ 47 - 1))

/-- `MAC.L`: the new accumulator, by the old one, the product and `S`; `none` where the rule leaves it to a draw, with `S`
set and an accumulator already outside 48 bits (R224). -/
def macLong (mac : BitVec 64) (p : Int) (sat : Bool) : Option (BitVec 64) :=
  if sat = false then some (BitVec.ofInt 64 (mac.toInt + p))
  else if mac.toInt < -2 ^ 47 ∨ 2 ^ 47 - 1 < mac.toInt then none
  else some (BitVec.ofInt 64 (clamp48 (mac.toInt + p)))

/-- `MAC.W`: the new `MACH` and `MACL` (R225). -/
def macWord (mach macl : Word) (p : Int) (sat : Bool) : Word × Word :=
  if sat = false then
    let r := BitVec.ofInt 64 ((mach ++ macl : BitVec 64).toInt + p)
    (r.extractLsb' 32 32, r.extractLsb' 0 32)
  else
    let s := macl.toInt + p
    if 2 ^ 31 - 1 < s then (mach ||| 1, 0x7FFFFFFF)
    else if s < -2 ^ 31 then (mach ||| 1, 0x80000000)
    else (mach, BitVec.ofInt 32 s)

end Sys2Proof.Machine
end

