-- ==== Sys2Proof/Machine/Operands.lean ====
section
/-! DEFINITION. Operand values and effective addresses, every form of 30_encoding R114 to R116. All sums wrap modulo 2^32. -/

namespace Sys2Proof.Machine

/-- `sext_8(imm8)`: `MOV`, `ADD`, `CMP/EQ #imm` (R114). -/
def immSigned (imm : Byte) : Word := imm.signExtend 32

/-- `zext_8(imm8)`: `AND`, `OR`, `XOR`, `TST #imm` and the memory-byte forms (R114). -/
def immUnsigned (imm : Byte) : Word := imm.setWidth 32

/-- `@(disp,Rn)`: `R[x] + zext_4(disp4) * size` (R115). -/
def eaDisp (s : State) (sz : Size) (x : Reg) (disp : Nibble) : Word :=
  s.reg x + disp.setWidth 32 * BitVec.ofNat 32 sz.bytes

/-- `@(R0,Rn)`: `R[x] + R[0]` (R115). -/
def eaIdx (s : State) (x : Reg) : Word := s.reg x + s.reg 0

/-- `@(disp,GBR)`: `GBR + zext_8(disp8) * size` (R115). -/
def eaGbr (s : State) (sz : Size) (disp : Byte) : Word := s.gbr + disp.setWidth 32 * BitVec.ofNat 32 sz.bytes

/-- `@(R0,GBR)`: `GBR + R[0]` (R115). -/
def eaGbrIdx (s : State) : Word := s.gbr + s.reg 0

/-- The base of a PC-relative form: `pc + 4`; in a delay slot what `PCREL_IN_SLOT` says (R115, R292): a refusal,
`branch_target + 2`, or the slot's own `pc + 4`. -/
def pcBaseThen (s : State) (k : Word → Result) : Result :=
  match s.delaySlot with
  | none => k (s.pc + 4)
  | some target =>
    match s.params.pcrelInSlot with
    | .refuse => .refused (.pcRelInSlot s.pc)
    | .targetBased => k (target + 2)
    | .slotBased => k (s.pc + 4)

/-- `@(disp,PC)`, `.W`: the base is not rounded (R115, R142). -/
def eaPcWord (base : Word) (disp : Byte) : Word := base + disp.setWidth 32 * 2

/-- `@(disp,PC)`, `.L`, and `MOVA`: the low two bits of the base are cleared (R115, R143, R175). -/
def eaPcLong (base : Word) (disp : Byte) : Word := (base &&& 0xFFFFFFFC) + disp.setWidth 32 * 4

/-- The target of `BT`, `BF`, `BT/S`, `BF/S`: `pc + 4 + sext_8(disp8) * 2` (R115). -/
def target8 (s : State) (disp : Byte) : Word := s.pc + 4 + disp.signExtend 32 * 2

/-- The target of `BRA`, `BSR`: `pc + 4 + sext_12(disp12) * 2` (R115). -/
def target12 (s : State) (disp : BitVec 12) : Word := s.pc + 4 + disp.signExtend 32 * 2

/-- The target of `BRAF`, `BSRF`: `pc + 4 + R[m]` (R115). -/
def targetFar (s : State) (m : Reg) : Word := s.pc + 4 + s.reg m

end Sys2Proof.Machine
end

