-- ==== Sys2Proof/Machine/Arithmetic.lean ====
section
/-! DEFINITION. Arithmetic instructions (41_arithmetic R200 to R233). -/

namespace Sys2Proof.Machine

/-- `ADD Rm,Rn` (R201). -/
def execAddReg (m n : Reg) (s : State) : Result := writeReg n (s.reg n + s.reg m) s

/-- `ADD #imm,Rn` (R202). -/
def execAddImm (n : Reg) (imm : Byte) (s : State) : Result := writeReg n (s.reg n + immSigned imm) s

/-- `ADDC Rm,Rn` (R203). -/
def execAddc (m n : Reg) (s : State) : Result := writeRegT n (addCarry (s.reg n) (s.reg m) s.t) s

/-- `ADDV Rm,Rn` (R204). -/
def execAddv (m n : Reg) (s : State) : Result := writeRegT n (addOverflow (s.reg n) (s.reg m)) s

/-- `CMP/EQ #imm,R0` (R205). -/
def execCmpEqImm (imm : Byte) (s : State) : Result := writeT (s.reg 0 == immSigned imm) s

/-- `CMP/EQ Rm,Rn` (R206). -/
def execCmpEq (m n : Reg) (s : State) : Result := writeT (s.reg n == s.reg m) s

/-- `CMP/HS Rm,Rn` (R207). -/
def execCmpHs (m n : Reg) (s : State) : Result := writeT (higherOrSame (s.reg n) (s.reg m)) s

/-- `CMP/GE Rm,Rn` (R208). -/
def execCmpGe (m n : Reg) (s : State) : Result := writeT (greaterOrEqual (s.reg n) (s.reg m)) s

/-- `CMP/HI Rm,Rn` (R209). -/
def execCmpHi (m n : Reg) (s : State) : Result := writeT (higher (s.reg n) (s.reg m)) s

/-- `CMP/GT Rm,Rn` (R210). -/
def execCmpGt (m n : Reg) (s : State) : Result := writeT (greater (s.reg n) (s.reg m)) s

/-- `CMP/PL Rn` (R211). -/
def execCmpPl (n : Reg) (s : State) : Result := writeT (greater (s.reg n) 0) s

/-- `CMP/PZ Rn` (R212). -/
def execCmpPz (n : Reg) (s : State) : Result := writeT (greaterOrEqual (s.reg n) 0) s

/-- `CMP/STR Rm,Rn` (R213). -/
def execCmpStr (m n : Reg) (s : State) : Result := writeT (anyByteEqual (s.reg n) (s.reg m)) s

/-- `DIV1 Rm,Rn` (R214). -/
def execDiv1 (m n : Reg) (s : State) : Result :=
  let d := divStep (s.reg n) (s.reg m) s.q s.m s.t
  done (((s.setReg n d.result).setQ d.q).setT d.t)

/-- `DIV0S Rm,Rn` (R215). -/
def execDiv0s (m n : Reg) (s : State) : Result :=
  let q := (s.reg n).getLsbD 31
  let mm := (s.reg m).getLsbD 31
  done (((s.setQ q).setM mm).setT (q ^^ mm))

/-- `DIV0U` (R216). -/
def execDiv0u (s : State) : Result := done (((s.setM false).setQ false).setT false)

/-- `DMULS.L Rm,Rn` (R217). -/
def execDmulsL (m n : Reg) (s : State) : Result :=
  done (s.setMac (BitVec.ofInt 64 ((s.reg n).toInt * (s.reg m).toInt)))

/-- `DMULU.L Rm,Rn` (R218). -/
def execDmuluL (m n : Reg) (s : State) : Result :=
  done (s.setMac (BitVec.ofNat 64 ((s.reg n).toNat * (s.reg m).toNat)))

/-- `DT Rn` (R219). -/
def execDt (n : Reg) (s : State) : Result := writeRegT n (decrementTest (s.reg n)) s

/-- `EXTS.B Rm,Rn` (R220). -/
def execExtsB (m n : Reg) (s : State) : Result := writeReg n (sext8 (s.reg m)) s

/-- `EXTS.W Rm,Rn` (R221). -/
def execExtsW (m n : Reg) (s : State) : Result := writeReg n (sext16 (s.reg m)) s

/-- `EXTU.B Rm,Rn` (R222). -/
def execExtuB (m n : Reg) (s : State) : Result := writeReg n (zext8 (s.reg m)) s

/-- `EXTU.W Rm,Rn` (R223). -/
def execExtuW (m n : Reg) (s : State) : Result := writeReg n (zext16 (s.reg m)) s

/-- The two reads of a multiply-accumulate: `@Rn` first, its register stepped, then `@Rm`, which sees the new `R[n]` when
`m = n`; other agents may move between the two (R94, R224, R225). -/
def macOperands (sz : Size) (m n : Reg) (s : State) (k : Word → Word → State → Result) : Result :=
  loadThen sz (s.reg n) s (fun a s1 =>
    andThen (interpose (s1.setReg n (s1.reg n + BitVec.ofNat 32 sz.bytes))) (fun s2 =>
      loadThen sz (s2.reg m) s2 (fun b s3 => k a b (s3.setReg m (s3.reg m + BitVec.ofNat 32 sz.bytes)))))

/-- Accumulate a product into `MAC`; where the rule draws the result, a free 64-bit value (R224, D26; log 5). -/
def accumulateLong (p : Int) (s : State) : State :=
  match macLong s.mac p s.sBit with
  | some r => s.setMac r
  | none => { s.setMac (Config.draw s.draws) with draws := s.draws + 1 }

/-- `MAC.L @Rm+,@Rn+` (R224). -/
def execMacL (m n : Reg) (s : State) : Result :=
  macOperands .long m n s (fun a b s' => done (accumulateLong (a.toInt * b.toInt) s'))

/-- `MAC.W @Rm+,@Rn+` (R225). -/
def execMacW (m n : Reg) (s : State) : Result :=
  macOperands .word m n s (fun a b s' =>
    let r := macWord s'.mach s'.macl ((sext16 a).toInt * (sext16 b).toInt) s'.sBit
    done { s' with mach := r.1, macl := r.2 })

/-- `MUL.L Rm,Rn` (R226). -/
def execMulL (m n : Reg) (s : State) : Result := done { s with macl := s.reg n * s.reg m }

/-- `MULS.W Rm,Rn` (R227). -/
def execMulsW (m n : Reg) (s : State) : Result :=
  done { s with macl := BitVec.ofInt 32 ((sext16 (s.reg n)).toInt * (sext16 (s.reg m)).toInt) }

/-- `MULU.W Rm,Rn` (R228). -/
def execMuluW (m n : Reg) (s : State) : Result :=
  done { s with macl := zext16 (s.reg n) * zext16 (s.reg m) }

/-- `NEG Rm,Rn` (R229). -/
def execNeg (m n : Reg) (s : State) : Result := writeReg n (0 - s.reg m) s

/-- `NEGC Rm,Rn` (R230). -/
def execNegc (m n : Reg) (s : State) : Result := writeRegT n (subBorrow 0 (s.reg m) s.t) s

/-- `SUB Rm,Rn` (R231). -/
def execSub (m n : Reg) (s : State) : Result := writeReg n (s.reg n - s.reg m) s

/-- `SUBC Rm,Rn` (R232). -/
def execSubc (m n : Reg) (s : State) : Result := writeRegT n (subBorrow (s.reg n) (s.reg m) s.t) s

/-- `SUBV Rm,Rn` (R233). -/
def execSubv (m n : Reg) (s : State) : Result := writeRegT n (subOverflow (s.reg n) (s.reg m)) s

end Sys2Proof.Machine
end

