-- ==== Sys2Proof/Machine/Branch.lean ====
section
/-! DEFINITION. Branch instructions (44_branch R290 to R307). -/

namespace Sys2Proof.Machine

/-- `BF label` (R295). -/
def execBf (disp : Byte) (s : State) : Result :=
  outsideSlot s (if s.t = false then jump (target8 s disp) s else done s)

/-- `BF/S label`: the next instruction is the slot whether or not the branch is taken (R296, D11). -/
def execBfs (disp : Byte) (s : State) : Result :=
  outsideSlot s (delayedBranch (if s.t = false then target8 s disp else s.pc + 4) s)

/-- `BT label` (R297). -/
def execBt (disp : Byte) (s : State) : Result :=
  outsideSlot s (if s.t = true then jump (target8 s disp) s else done s)

/-- `BT/S label` (R298, D11). -/
def execBts (disp : Byte) (s : State) : Result :=
  outsideSlot s (delayedBranch (if s.t = true then target8 s disp else s.pc + 4) s)

/-- `BRA label` (R299). -/
def execBra (disp : BitVec 12) (s : State) : Result := outsideSlot s (delayedBranch (target12 s disp) s)

/-- `BRAF Rm` (R300). -/
def execBraf (m : Reg) (s : State) : Result := outsideSlot s (delayedBranch (targetFar s m) s)

/-- `BSR label` (R301). -/
def execBsr (disp : BitVec 12) (s : State) : Result :=
  outsideSlot s (delayedBranch (target12 s disp) { s with pr := s.pc + 4 })

/-- `BSRF Rm` (R302). -/
def execBsrf (m : Reg) (s : State) : Result :=
  outsideSlot s (delayedBranch (targetFar s m) { s with pr := s.pc + 4 })

/-- `JMP @Rm` (R303). -/
def execJmp (m : Reg) (s : State) : Result := outsideSlot s (delayedBranch (s.reg m) s)

/-- `JSR @Rm` (R304). -/
def execJsr (m : Reg) (s : State) : Result :=
  outsideSlot s (delayedBranch (s.reg m) { s with pr := s.pc + 4 })

/-- `RTS` (R305). -/
def execRts (s : State) : Result := outsideSlot s (delayedBranch s.pr s)

end Sys2Proof.Machine
end

