-- ==== Sys2Proof/Machine/DataTransfer.lean ====
section
/-! DEFINITION. Data transfer instructions (40_data_transfer R140 to R179). -/

namespace Sys2Proof.Machine

/-- `MOV #imm,Rn` (R141). -/
def execMovImm (n : Reg) (imm : Byte) (s : State) : Result := writeReg n (immSigned imm) s

/-- `MOV.W @(disp,PC),Rn` (R142, R292). -/
def execMovWLoadPc (n : Reg) (disp : Byte) (s : State) : Result :=
  pcBaseThen s (fun base => loadReg .word (eaPcWord base disp) n s)

/-- `MOV.L @(disp,PC),Rn` (R143, R292). -/
def execMovLLoadPc (n : Reg) (disp : Byte) (s : State) : Result :=
  pcBaseThen s (fun base => loadReg .long (eaPcLong base disp) n s)

/-- `MOV Rm,Rn` (R144). -/
def execMovReg (m n : Reg) (s : State) : Result := writeReg n (s.reg m) s

/-- `MOV.B Rm,@Rn` (R145). -/
def execMovBStore (m n : Reg) (s : State) : Result := store .byte (s.reg n) (s.reg m) s

/-- `MOV.W Rm,@Rn` (R146). -/
def execMovWStore (m n : Reg) (s : State) : Result := store .word (s.reg n) (s.reg m) s

/-- `MOV.L Rm,@Rn` (R147). -/
def execMovLStore (m n : Reg) (s : State) : Result := store .long (s.reg n) (s.reg m) s

/-- `MOV.B @Rm,Rn` (R148). -/
def execMovBLoad (m n : Reg) (s : State) : Result := loadReg .byte (s.reg m) n s

/-- `MOV.W @Rm,Rn` (R149). -/
def execMovWLoad (m n : Reg) (s : State) : Result := loadReg .word (s.reg m) n s

/-- `MOV.L @Rm,Rn` (R150). -/
def execMovLLoad (m n : Reg) (s : State) : Result := loadReg .long (s.reg m) n s

/-- `MOV.B Rm,@-Rn` (R151). -/
def execMovBStoreDec (m n : Reg) (s : State) : Result := storeDec .byte n (s.reg m) s

/-- `MOV.W Rm,@-Rn` (R152). -/
def execMovWStoreDec (m n : Reg) (s : State) : Result := storeDec .word n (s.reg m) s

/-- `MOV.L Rm,@-Rn` (R153). -/
def execMovLStoreDec (m n : Reg) (s : State) : Result := storeDec .long n (s.reg m) s

/-- `MOV.B @Rm+,Rn` (R154). -/
def execMovBLoadInc (m n : Reg) (s : State) : Result := loadRegInc .byte m n s

/-- `MOV.W @Rm+,Rn` (R155). -/
def execMovWLoadInc (m n : Reg) (s : State) : Result := loadRegInc .word m n s

/-- `MOV.L @Rm+,Rn` (R156). -/
def execMovLLoadInc (m n : Reg) (s : State) : Result := loadRegInc .long m n s

/-- `MOV.B R0,@(disp,Rn)` (R157). -/
def execMovBStoreDisp (n : Reg) (disp : Nibble) (s : State) : Result :=
  store .byte (eaDisp s .byte n disp) (s.reg 0) s

/-- `MOV.W R0,@(disp,Rn)` (R158). -/
def execMovWStoreDisp (n : Reg) (disp : Nibble) (s : State) : Result :=
  store .word (eaDisp s .word n disp) (s.reg 0) s

/-- `MOV.L Rm,@(disp,Rn)` (R159). -/
def execMovLStoreDisp (m n : Reg) (disp : Nibble) (s : State) : Result :=
  store .long (eaDisp s .long n disp) (s.reg m) s

/-- `MOV.B @(disp,Rm),R0` (R160). -/
def execMovBLoadDisp (m : Reg) (disp : Nibble) (s : State) : Result :=
  loadReg .byte (eaDisp s .byte m disp) 0 s

/-- `MOV.W @(disp,Rm),R0` (R161). -/
def execMovWLoadDisp (m : Reg) (disp : Nibble) (s : State) : Result :=
  loadReg .word (eaDisp s .word m disp) 0 s

/-- `MOV.L @(disp,Rm),Rn` (R162). -/
def execMovLLoadDisp (m n : Reg) (disp : Nibble) (s : State) : Result :=
  loadReg .long (eaDisp s .long m disp) n s

/-- `MOV.B Rm,@(R0,Rn)` (R163). -/
def execMovBStoreIdx (m n : Reg) (s : State) : Result := store .byte (eaIdx s n) (s.reg m) s

/-- `MOV.W Rm,@(R0,Rn)` (R164). -/
def execMovWStoreIdx (m n : Reg) (s : State) : Result := store .word (eaIdx s n) (s.reg m) s

/-- `MOV.L Rm,@(R0,Rn)` (R165). -/
def execMovLStoreIdx (m n : Reg) (s : State) : Result := store .long (eaIdx s n) (s.reg m) s

/-- `MOV.B @(R0,Rm),Rn` (R166). -/
def execMovBLoadIdx (m n : Reg) (s : State) : Result := loadReg .byte (eaIdx s m) n s

/-- `MOV.W @(R0,Rm),Rn` (R167). -/
def execMovWLoadIdx (m n : Reg) (s : State) : Result := loadReg .word (eaIdx s m) n s

/-- `MOV.L @(R0,Rm),Rn` (R168). -/
def execMovLLoadIdx (m n : Reg) (s : State) : Result := loadReg .long (eaIdx s m) n s

/-- `MOV.B R0,@(disp,GBR)` (R169). -/
def execMovBStoreGbr (disp : Byte) (s : State) : Result := store .byte (eaGbr s .byte disp) (s.reg 0) s

/-- `MOV.W R0,@(disp,GBR)` (R170). -/
def execMovWStoreGbr (disp : Byte) (s : State) : Result := store .word (eaGbr s .word disp) (s.reg 0) s

/-- `MOV.L R0,@(disp,GBR)` (R171). -/
def execMovLStoreGbr (disp : Byte) (s : State) : Result := store .long (eaGbr s .long disp) (s.reg 0) s

/-- `MOV.B @(disp,GBR),R0` (R172). -/
def execMovBLoadGbr (disp : Byte) (s : State) : Result := loadReg .byte (eaGbr s .byte disp) 0 s

/-- `MOV.W @(disp,GBR),R0` (R173). -/
def execMovWLoadGbr (disp : Byte) (s : State) : Result := loadReg .word (eaGbr s .word disp) 0 s

/-- `MOV.L @(disp,GBR),R0` (R174). -/
def execMovLLoadGbr (disp : Byte) (s : State) : Result := loadReg .long (eaGbr s .long disp) 0 s

/-- `MOVA @(disp,PC),R0`: no memory access (R175, R292). -/
def execMova (disp : Byte) (s : State) : Result :=
  pcBaseThen s (fun base => writeReg 0 (eaPcLong base disp) s)

/-- `MOVT Rn` (R176). -/
def execMovt (n : Reg) (s : State) : Result := writeReg n (boolWord s.t) s

/-- `SWAP.B Rm,Rn` (R177). -/
def execSwapB (m n : Reg) (s : State) : Result :=
  let v := s.reg m
  writeReg n (v.extractLsb' 16 16 ++ (v.extractLsb' 0 8 ++ v.extractLsb' 8 8 : Half)) s

/-- `SWAP.W Rm,Rn` (R178). -/
def execSwapW (m n : Reg) (s : State) : Result :=
  let v := s.reg m
  writeReg n (v.extractLsb' 0 16 ++ v.extractLsb' 16 16) s

/-- `XTRCT Rm,Rn` (R179). -/
def execXtrct (m n : Reg) (s : State) : Result :=
  writeReg n ((s.reg m).extractLsb' 0 16 ++ (s.reg n).extractLsb' 16 16) s

end Sys2Proof.Machine
end

