-- ==== Sys2Proof/Machine/Logic.lean ====
section
/-! DEFINITION. Logic instructions (42_logic R250 to R264). -/

namespace Sys2Proof.Machine

/-- `AND Rm,Rn` (R251). -/
def execAndReg (m n : Reg) (s : State) : Result := writeReg n (s.reg n &&& s.reg m) s

/-- `AND #imm,R0` (R252). -/
def execAndImm (imm : Byte) (s : State) : Result := writeReg 0 (s.reg 0 &&& immUnsigned imm) s

/-- `AND.B #imm,@(R0,GBR)` (R253). -/
def execAndB (imm : Byte) (s : State) : Result := modifyByte (eaGbrIdx s) (fun b => b &&& immUnsigned imm) s

/-- `NOT Rm,Rn` (R254). -/
def execNotReg (m n : Reg) (s : State) : Result := writeReg n (~~~(s.reg m)) s

/-- `OR Rm,Rn` (R255). -/
def execOrReg (m n : Reg) (s : State) : Result := writeReg n (s.reg n ||| s.reg m) s

/-- `OR #imm,R0` (R256). -/
def execOrImm (imm : Byte) (s : State) : Result := writeReg 0 (s.reg 0 ||| immUnsigned imm) s

/-- `OR.B #imm,@(R0,GBR)` (R257). -/
def execOrB (imm : Byte) (s : State) : Result := modifyByte (eaGbrIdx s) (fun b => b ||| immUnsigned imm) s

/-- `TAS.B @Rn`: the read and the write are one indivisible pair, nothing falls between them, and the read bypasses the cache
(R68, R97, R258). -/
def execTasB (n : Reg) (s : State) : Result :=
  loadUncachedThen .byte (s.reg n) s (fun b s' =>
    storeThen .byte (s.reg n) (b ||| 0x80) s' (fun s'' => writeT (b == 0) s''))

/-- `TST Rm,Rn` (R259). -/
def execTstReg (m n : Reg) (s : State) : Result := writeT (testZero (s.reg n) (s.reg m)) s

/-- `TST #imm,R0` (R260). -/
def execTstImm (imm : Byte) (s : State) : Result := writeT (testZero (s.reg 0) (immUnsigned imm)) s

/-- `TST.B #imm,@(R0,GBR)` (R261). -/
def execTstB (imm : Byte) (s : State) : Result :=
  loadThen .byte (eaGbrIdx s) s (fun b s' => writeT (testZero b (immUnsigned imm)) s')

/-- `XOR Rm,Rn` (R262). -/
def execXorReg (m n : Reg) (s : State) : Result := writeReg n (s.reg n ^^^ s.reg m) s

/-- `XOR #imm,R0` (R263). -/
def execXorImm (imm : Byte) (s : State) : Result := writeReg 0 (s.reg 0 ^^^ immUnsigned imm) s

/-- `XOR.B #imm,@(R0,GBR)` (R264). -/
def execXorB (imm : Byte) (s : State) : Result := modifyByte (eaGbrIdx s) (fun b => b ^^^ immUnsigned imm) s

end Sys2Proof.Machine
end

