-- ==== Sys2Proof/Machine/Shift.lean ====
section
/-! DEFINITION. Shift and rotate instructions (43_shift R270 to R284). -/

namespace Sys2Proof.Machine

/-- `ROTL Rn` (R271). -/
def execRotl (n : Reg) (s : State) : Result := writeRegT n (rotl (s.reg n)) s

/-- `ROTR Rn` (R272). -/
def execRotr (n : Reg) (s : State) : Result := writeRegT n (rotr (s.reg n)) s

/-- `ROTCL Rn` (R273). -/
def execRotcl (n : Reg) (s : State) : Result := writeRegT n (rotcl (s.reg n) s.t) s

/-- `ROTCR Rn` (R274). -/
def execRotcr (n : Reg) (s : State) : Result := writeRegT n (rotcr (s.reg n) s.t) s

/-- `SHAL Rn` (R275). -/
def execShal (n : Reg) (s : State) : Result := writeRegT n (shiftLeftOut (s.reg n)) s

/-- `SHAR Rn` (R276). -/
def execShar (n : Reg) (s : State) : Result := writeRegT n (shiftArithOut (s.reg n)) s

/-- `SHLL Rn` (R277). -/
def execShll (n : Reg) (s : State) : Result := writeRegT n (shiftLeftOut (s.reg n)) s

/-- `SHLR Rn` (R278). -/
def execShlr (n : Reg) (s : State) : Result := writeRegT n (shiftRightOut (s.reg n)) s

/-- `SHLL2 Rn` (R279). -/
def execShll2 (n : Reg) (s : State) : Result := writeReg n (s.reg n <<< 2) s

/-- `SHLR2 Rn` (R280). -/
def execShlr2 (n : Reg) (s : State) : Result := writeReg n (s.reg n >>> 2) s

/-- `SHLL8 Rn` (R281). -/
def execShll8 (n : Reg) (s : State) : Result := writeReg n (s.reg n <<< 8) s

/-- `SHLR8 Rn` (R282). -/
def execShlr8 (n : Reg) (s : State) : Result := writeReg n (s.reg n >>> 8) s

/-- `SHLL16 Rn` (R283). -/
def execShll16 (n : Reg) (s : State) : Result := writeReg n (s.reg n <<< 16) s

/-- `SHLR16 Rn` (R284). -/
def execShlr16 (n : Reg) (s : State) : Result := writeReg n (s.reg n >>> 16) s

end Sys2Proof.Machine
end

