-- ==== Sys2Proof/Machine/System.lean ====
section
/-! DEFINITION. System control instructions (45_system R320 to R351). -/

namespace Sys2Proof.Machine

/-- `CLRT` (R321). -/
def execClrt (s : State) : Result := writeT false s

/-- `CLRMAC` (R322). -/
def execClrmac (s : State) : Result := done { s with mach := 0, macl := 0 }

/-- `LDC Rm,SR` (R323). -/
def execLdcSr (m : Reg) (s : State) : Result := done (s.setSr (s.reg m))

/-- `LDC Rm,GBR` (R324). -/
def execLdcGbr (m : Reg) (s : State) : Result := done { s with gbr := s.reg m }

/-- `LDC Rm,VBR` (R325). -/
def execLdcVbr (m : Reg) (s : State) : Result := done { s with vbr := s.reg m }

/-- `LDC.L @Rm+,SR` (R326). -/
def execLdcLSr (m : Reg) (s : State) : Result := popInto m State.setSr s

/-- `LDC.L @Rm+,GBR` (R327). -/
def execLdcLGbr (m : Reg) (s : State) : Result := popInto m (fun s' v => { s' with gbr := v }) s

/-- `LDC.L @Rm+,VBR` (R328). -/
def execLdcLVbr (m : Reg) (s : State) : Result := popInto m (fun s' v => { s' with vbr := v }) s

/-- `LDS Rm,MACH` (R329). -/
def execLdsMach (m : Reg) (s : State) : Result := done { s with mach := s.reg m }

/-- `LDS Rm,MACL` (R330). -/
def execLdsMacl (m : Reg) (s : State) : Result := done { s with macl := s.reg m }

/-- `LDS Rm,PR` (R331). -/
def execLdsPr (m : Reg) (s : State) : Result := done { s with pr := s.reg m }

/-- `LDS.L @Rm+,MACH` (R332). -/
def execLdsLMach (m : Reg) (s : State) : Result := popInto m (fun s' v => { s' with mach := v }) s

/-- `LDS.L @Rm+,MACL` (R333). -/
def execLdsLMacl (m : Reg) (s : State) : Result := popInto m (fun s' v => { s' with macl := v }) s

/-- `LDS.L @Rm+,PR` (R334). -/
def execLdsLPr (m : Reg) (s : State) : Result := popInto m (fun s' v => { s' with pr := v }) s

/-- `NOP` (R335). -/
def execNop (s : State) : Result := done s

/-- `SETT` (R336). -/
def execSett (s : State) : Result := writeT true s

/-- `STC SR,Rn` (R337). -/
def execStcSr (n : Reg) (s : State) : Result := writeReg n s.sr s

/-- `STC GBR,Rn` (R338). -/
def execStcGbr (n : Reg) (s : State) : Result := writeReg n s.gbr s

/-- `STC VBR,Rn` (R339). -/
def execStcVbr (n : Reg) (s : State) : Result := writeReg n s.vbr s

/-- `STC.L SR,@-Rn` (R340). -/
def execStcLSr (n : Reg) (s : State) : Result := storeDec .long n s.sr s

/-- `STC.L GBR,@-Rn` (R341). -/
def execStcLGbr (n : Reg) (s : State) : Result := storeDec .long n s.gbr s

/-- `STC.L VBR,@-Rn` (R342). -/
def execStcLVbr (n : Reg) (s : State) : Result := storeDec .long n s.vbr s

/-- `STS MACH,Rn` (R343). -/
def execStsMach (n : Reg) (s : State) : Result := writeReg n s.mach s

/-- `STS MACL,Rn` (R344). -/
def execStsMacl (n : Reg) (s : State) : Result := writeReg n s.macl s

/-- `RTE` (R345). -/
def execRte (s : State) : Result := outsideSlot s (returnFromException s)

/-- `STS PR,Rn` (R346). -/
def execStsPr (n : Reg) (s : State) : Result := writeReg n s.pr s

/-- `STS.L MACH,@-Rn` (R347). -/
def execStsLMach (n : Reg) (s : State) : Result := storeDec .long n s.mach s

/-- `STS.L MACL,@-Rn` (R348). -/
def execStsLMacl (n : Reg) (s : State) : Result := storeDec .long n s.macl s

/-- `STS.L PR,@-Rn` (R349). -/
def execStsLPr (n : Reg) (s : State) : Result := storeDec .long n s.pr s

/-- `SLEEP`: the core stops fetching until an interrupt is accepted; standby mode is refused (R350). -/
def execSleep (s : State) : Result :=
  if s.sbycr.getLsbD 7 then .refused .standbyMode else done { s with run := .sleeping }

/-- `TRAPA #imm`: the exception of the vector, the next address saved, `SR` unchanged (R351, R406). -/
def execTrapa (imm : Byte) (s : State) : Result := outsideSlot s (enter imm.toNat (s.pc + 2) none s)

end Sys2Proof.Machine
end

