-- ==== Sys2Proof/Machine/Dispatch.lean ====
section
/-! DEFINITION. The dispatch: one arm for each constructor of Instr, each one call of that instruction's meaning. -/

namespace Sys2Proof.Machine

/-- The meaning of an instruction: its effect on the state, the address of the instruction being `pc`. -/
def exec (i : Instr) (s : State) : Host.Outcome State Fault Refusal :=
  match i with
  -- 40_data_transfer.md
  | .movImm n imm => Sys2Proof.Machine.execMovImm n imm s
  | .movWLoadPc n disp => Sys2Proof.Machine.execMovWLoadPc n disp s
  | .movLLoadPc n disp => Sys2Proof.Machine.execMovLLoadPc n disp s
  | .movReg m n => Sys2Proof.Machine.execMovReg m n s
  | .movBStore m n => Sys2Proof.Machine.execMovBStore m n s
  | .movWStore m n => Sys2Proof.Machine.execMovWStore m n s
  | .movLStore m n => Sys2Proof.Machine.execMovLStore m n s
  | .movBLoad m n => Sys2Proof.Machine.execMovBLoad m n s
  | .movWLoad m n => Sys2Proof.Machine.execMovWLoad m n s
  | .movLLoad m n => Sys2Proof.Machine.execMovLLoad m n s
  | .movBStoreDec m n => Sys2Proof.Machine.execMovBStoreDec m n s
  | .movWStoreDec m n => Sys2Proof.Machine.execMovWStoreDec m n s
  | .movLStoreDec m n => Sys2Proof.Machine.execMovLStoreDec m n s
  | .movBLoadInc m n => Sys2Proof.Machine.execMovBLoadInc m n s
  | .movWLoadInc m n => Sys2Proof.Machine.execMovWLoadInc m n s
  | .movLLoadInc m n => Sys2Proof.Machine.execMovLLoadInc m n s
  | .movBStoreDisp n disp => Sys2Proof.Machine.execMovBStoreDisp n disp s
  | .movWStoreDisp n disp => Sys2Proof.Machine.execMovWStoreDisp n disp s
  | .movLStoreDisp m n disp => Sys2Proof.Machine.execMovLStoreDisp m n disp s
  | .movBLoadDisp m disp => Sys2Proof.Machine.execMovBLoadDisp m disp s
  | .movWLoadDisp m disp => Sys2Proof.Machine.execMovWLoadDisp m disp s
  | .movLLoadDisp m n disp => Sys2Proof.Machine.execMovLLoadDisp m n disp s
  | .movBStoreIdx m n => Sys2Proof.Machine.execMovBStoreIdx m n s
  | .movWStoreIdx m n => Sys2Proof.Machine.execMovWStoreIdx m n s
  | .movLStoreIdx m n => Sys2Proof.Machine.execMovLStoreIdx m n s
  | .movBLoadIdx m n => Sys2Proof.Machine.execMovBLoadIdx m n s
  | .movWLoadIdx m n => Sys2Proof.Machine.execMovWLoadIdx m n s
  | .movLLoadIdx m n => Sys2Proof.Machine.execMovLLoadIdx m n s
  | .movBStoreGbr disp => Sys2Proof.Machine.execMovBStoreGbr disp s
  | .movWStoreGbr disp => Sys2Proof.Machine.execMovWStoreGbr disp s
  | .movLStoreGbr disp => Sys2Proof.Machine.execMovLStoreGbr disp s
  | .movBLoadGbr disp => Sys2Proof.Machine.execMovBLoadGbr disp s
  | .movWLoadGbr disp => Sys2Proof.Machine.execMovWLoadGbr disp s
  | .movLLoadGbr disp => Sys2Proof.Machine.execMovLLoadGbr disp s
  | .mova disp => Sys2Proof.Machine.execMova disp s
  | .movt n => Sys2Proof.Machine.execMovt n s
  | .swapB m n => Sys2Proof.Machine.execSwapB m n s
  | .swapW m n => Sys2Proof.Machine.execSwapW m n s
  | .xtrct m n => Sys2Proof.Machine.execXtrct m n s
  -- 41_arithmetic.md
  | .addReg m n => Sys2Proof.Machine.execAddReg m n s
  | .addImm n imm => Sys2Proof.Machine.execAddImm n imm s
  | .addc m n => Sys2Proof.Machine.execAddc m n s
  | .addv m n => Sys2Proof.Machine.execAddv m n s
  | .cmpEqImm imm => Sys2Proof.Machine.execCmpEqImm imm s
  | .cmpEq m n => Sys2Proof.Machine.execCmpEq m n s
  | .cmpHs m n => Sys2Proof.Machine.execCmpHs m n s
  | .cmpGe m n => Sys2Proof.Machine.execCmpGe m n s
  | .cmpHi m n => Sys2Proof.Machine.execCmpHi m n s
  | .cmpGt m n => Sys2Proof.Machine.execCmpGt m n s
  | .cmpPl n => Sys2Proof.Machine.execCmpPl n s
  | .cmpPz n => Sys2Proof.Machine.execCmpPz n s
  | .cmpStr m n => Sys2Proof.Machine.execCmpStr m n s
  | .div1 m n => Sys2Proof.Machine.execDiv1 m n s
  | .div0s m n => Sys2Proof.Machine.execDiv0s m n s
  | .div0u => Sys2Proof.Machine.execDiv0u s
  | .dmulsL m n => Sys2Proof.Machine.execDmulsL m n s
  | .dmuluL m n => Sys2Proof.Machine.execDmuluL m n s
  | .dt n => Sys2Proof.Machine.execDt n s
  | .extsB m n => Sys2Proof.Machine.execExtsB m n s
  | .extsW m n => Sys2Proof.Machine.execExtsW m n s
  | .extuB m n => Sys2Proof.Machine.execExtuB m n s
  | .extuW m n => Sys2Proof.Machine.execExtuW m n s
  | .macL m n => Sys2Proof.Machine.execMacL m n s
  | .macW m n => Sys2Proof.Machine.execMacW m n s
  | .mulL m n => Sys2Proof.Machine.execMulL m n s
  | .mulsW m n => Sys2Proof.Machine.execMulsW m n s
  | .muluW m n => Sys2Proof.Machine.execMuluW m n s
  | .neg m n => Sys2Proof.Machine.execNeg m n s
  | .negc m n => Sys2Proof.Machine.execNegc m n s
  | .sub m n => Sys2Proof.Machine.execSub m n s
  | .subc m n => Sys2Proof.Machine.execSubc m n s
  | .subv m n => Sys2Proof.Machine.execSubv m n s
  -- 42_logic.md
  | .andReg m n => Sys2Proof.Machine.execAndReg m n s
  | .andImm imm => Sys2Proof.Machine.execAndImm imm s
  | .andB imm => Sys2Proof.Machine.execAndB imm s
  | .notReg m n => Sys2Proof.Machine.execNotReg m n s
  | .orReg m n => Sys2Proof.Machine.execOrReg m n s
  | .orImm imm => Sys2Proof.Machine.execOrImm imm s
  | .orB imm => Sys2Proof.Machine.execOrB imm s
  | .tasB n => Sys2Proof.Machine.execTasB n s
  | .tstReg m n => Sys2Proof.Machine.execTstReg m n s
  | .tstImm imm => Sys2Proof.Machine.execTstImm imm s
  | .tstB imm => Sys2Proof.Machine.execTstB imm s
  | .xorReg m n => Sys2Proof.Machine.execXorReg m n s
  | .xorImm imm => Sys2Proof.Machine.execXorImm imm s
  | .xorB imm => Sys2Proof.Machine.execXorB imm s
  -- 43_shift.md
  | .rotl n => Sys2Proof.Machine.execRotl n s
  | .rotr n => Sys2Proof.Machine.execRotr n s
  | .rotcl n => Sys2Proof.Machine.execRotcl n s
  | .rotcr n => Sys2Proof.Machine.execRotcr n s
  | .shal n => Sys2Proof.Machine.execShal n s
  | .shar n => Sys2Proof.Machine.execShar n s
  | .shll n => Sys2Proof.Machine.execShll n s
  | .shlr n => Sys2Proof.Machine.execShlr n s
  | .shll2 n => Sys2Proof.Machine.execShll2 n s
  | .shlr2 n => Sys2Proof.Machine.execShlr2 n s
  | .shll8 n => Sys2Proof.Machine.execShll8 n s
  | .shlr8 n => Sys2Proof.Machine.execShlr8 n s
  | .shll16 n => Sys2Proof.Machine.execShll16 n s
  | .shlr16 n => Sys2Proof.Machine.execShlr16 n s
  -- 44_branch.md
  | .bf disp => Sys2Proof.Machine.execBf disp s
  | .bfs disp => Sys2Proof.Machine.execBfs disp s
  | .bt disp => Sys2Proof.Machine.execBt disp s
  | .bts disp => Sys2Proof.Machine.execBts disp s
  | .bra disp => Sys2Proof.Machine.execBra disp s
  | .braf m => Sys2Proof.Machine.execBraf m s
  | .bsr disp => Sys2Proof.Machine.execBsr disp s
  | .bsrf m => Sys2Proof.Machine.execBsrf m s
  | .jmp m => Sys2Proof.Machine.execJmp m s
  | .jsr m => Sys2Proof.Machine.execJsr m s
  | .rts => Sys2Proof.Machine.execRts s
  -- 45_system.md
  | .clrt => Sys2Proof.Machine.execClrt s
  | .clrmac => Sys2Proof.Machine.execClrmac s
  | .ldcSr m => Sys2Proof.Machine.execLdcSr m s
  | .ldcGbr m => Sys2Proof.Machine.execLdcGbr m s
  | .ldcVbr m => Sys2Proof.Machine.execLdcVbr m s
  | .ldcLSr m => Sys2Proof.Machine.execLdcLSr m s
  | .ldcLGbr m => Sys2Proof.Machine.execLdcLGbr m s
  | .ldcLVbr m => Sys2Proof.Machine.execLdcLVbr m s
  | .ldsMach m => Sys2Proof.Machine.execLdsMach m s
  | .ldsMacl m => Sys2Proof.Machine.execLdsMacl m s
  | .ldsPr m => Sys2Proof.Machine.execLdsPr m s
  | .ldsLMach m => Sys2Proof.Machine.execLdsLMach m s
  | .ldsLMacl m => Sys2Proof.Machine.execLdsLMacl m s
  | .ldsLPr m => Sys2Proof.Machine.execLdsLPr m s
  | .nop => Sys2Proof.Machine.execNop s
  | .sett => Sys2Proof.Machine.execSett s
  | .stcSr n => Sys2Proof.Machine.execStcSr n s
  | .stcGbr n => Sys2Proof.Machine.execStcGbr n s
  | .stcVbr n => Sys2Proof.Machine.execStcVbr n s
  | .stcLSr n => Sys2Proof.Machine.execStcLSr n s
  | .stcLGbr n => Sys2Proof.Machine.execStcLGbr n s
  | .stcLVbr n => Sys2Proof.Machine.execStcLVbr n s
  | .stsMach n => Sys2Proof.Machine.execStsMach n s
  | .stsMacl n => Sys2Proof.Machine.execStsMacl n s
  | .rte => Sys2Proof.Machine.execRte s
  | .stsPr n => Sys2Proof.Machine.execStsPr n s
  | .stsLMach n => Sys2Proof.Machine.execStsLMach n s
  | .stsLMacl n => Sys2Proof.Machine.execStsLMacl n s
  | .stsLPr n => Sys2Proof.Machine.execStsLPr n s
  | .sleep => Sys2Proof.Machine.execSleep s
  | .trapa imm => Sys2Proof.Machine.execTrapa imm s

end Sys2Proof.Machine
end

