-- ==== Sys2Proof/Machine/Interrupts.lean ====
section
/-! DEFINITION. Interrupt acceptance (60_exceptions R407, R410, R411): the sample at a boundary. -/

namespace Sys2Proof.Machine

/-- The mask an accepted interrupt leaves: its level, and 15 for level 16 (R411). -/
def acceptedMask (level : Nat) : BitVec 4 := BitVec.ofNat 4 (min level 15)

/-- The acceptance of a source (R410): its vector is read, it clears itself if it is an on-chip source, the core runs, and
the entry saves the `pc` the core would have fetched next (R407). Other agents may move before its first push (R94). -/
def acceptInterrupt (level : Nat) (src : Source) (s : State) : Result :=
  andThen (interpose { s.acceptSource src with run := .running })
    (enter (s.vectorFor src) s.pc (some (acceptedMask level)))

/-- `Sample()` (R410): when the current level exceeds `IMASK`, a source at that level is accepted. -/
def sample (s : State) : Result :=
  if s.imask.toNat < s.intc.currentLevel then
    match chooseSource s (s.intc.sourcesAt s.intc.currentLevel) with
    | some (src, s') => acceptInterrupt s.intc.currentLevel src s'
    | none => .next s
  else .next s

/-- The sample at a scheduling point between two steps of the core: only a sleeping core samples there (R410). -/
def sampleAsleep (s : State) : Result :=
  match s.run with
  | .sleeping => sample s
  | .running => .next s

end Sys2Proof.Machine
end

