-- ==== Sys2Proof/Machine/Reset.lean ====
section
/-! DEFINITION. The system reset (70_reset R500 to R502, 10_state R50), as an event of a run. -/

namespace Sys2Proof.Machine

/-- The stores a reset leaves: the two ROM images and the frame buffer, which is not the node's (R502). -/
def survivesReset (a : Nat) : Bool := inRom a || inFrameBuffer a

/-- `SR` after a reset: `IMASK` is 15, the reserved bits are 0, and `T`, `S`, `Q`, `M` are drawn, one bit each (R501). -/
def drawnSr (k : Nat) : Word :=
  0xF0 ||| ((Config.draw k).setWidth 32 &&& 0x303)

/-- Everything a system reset gives a value, but for `pc` and `R15` (R501, R502). The registers without a reset value hold
what `State.reset` gives them (log 1, 3); SDRAM and the on-chip byte storage hold new free bytes (log 6, 22). What
is left of the agents' order stays, and so do the earlier values of R98, which only a purge ends (log 22, 27). -/
def State.clearForReset (s : State) : State :=
  { State.reset with
    params := s.params
    sr := drawnSr s.draws
    mem := s.mem.filter (fun c => survivesReset c.1)
    cartLength := s.cartLength
    fbBank := s.fbBank
    draws := s.draws + 1
    epoch := s.epoch + 1
    schedule := s.schedule
    inside := s.inside
    stale := s.stale }

/-- `Reset(core)` (R501): `pc` and `R15` are read through the decoder, from the longwords at 0 and 4 of the node's boot
ROM. -/
def systemReset (s : State) : Except Fault State :=
  match memRead .core .long 0 s.clearForReset with
  | .error f => .error f
  | .ok (pc, s1) =>
    match memRead .core .long 4 s1 with
    | .error f => .error f
    | .ok (sp, s2) => .ok ({ s2 with pc := pc }.setReg 15 sp)

end Sys2Proof.Machine
end

