-- ==== Sys2Proof/Machine/Sequencer.lean ====
section
/-! DEFINITION. What each agent's move does (20_memory R92, R93): the core's fetch, decode and execute with the delay slot
(10_state R24; 44_branch R291, R293), the controllers' steps, the Host's moves. -/

namespace Sys2Proof.Machine

/-- The opcode at `pc` decodes to `ILLEGAL`: vector 4 outside a slot, `fault SlotIllegal` in one (R293, R352, R405). -/
def illegalOpcode (s : State) : Result := outsideSlot s (raiseIllegal s)

/-- Execute a decoded opcode (R24). -/
def execOpcode (op : Half) (s : State) : Result :=
  match decodeWord op with
  | some i => exec i s
  | none => illegalOpcode s

/-- Fetch at `pc`, decode, execute (R12, R24, R98); other agents may move between the fetch and the instruction's own accesses
(R94). -/
def runOne (s : State) : Result :=
  loadThen .word s.pc s (fun op s' => andThen (interpose s') (execOpcode (op.setWidth 16)))

/-- The delay-slot instruction, at the slot's address with `in_slot` set, then the commit of the latched target (R291). -/
def runSlot (s : State) : Result := andThen (runOne s) (fun s' => .next s'.commitBranch)

/-- After the first instruction of a step: a delayed branch goes on with its slot in the same step (R291); other agents may move
before the slot's fetch (R94). -/
def finishBranch (s : State) : Result :=
  match s.delaySlot with
  | none => .next s
  | some _ => andThen (interpose s) runSlot

/-- What a running core does in one step: one instruction, or a delayed branch with its slot, or an exception entry (R291). -/
def runStep (s : State) : Result :=
  match s.delaySlot with
  | some _ => runSlot s
  | none => andThen (runOne s) finishBranch

/-- One step of the core, up to the sample at its boundary; a sleeping core fetches nothing (R48, R350, R410). Other agents may
move between the step's last access and the sample (R94). -/
def coreMove (s : State) : Result :=
  match s.run with
  | .sleeping => .next s
  | .running => andThen (runStep s) interpose

/-- The step of an agent, with the interrupt sample its boundary asks for: after every step of the core, and at every
scheduling point while the core sleeps (R92, R93, R410, R434). -/
def agentMove (e : Event) (s : State) : Result :=
  match e with
  | .core => andThen (coreMove s) sample
  | .move m => andThen (moveStep m s) sampleAsleep
  | .hostReset => ofExcept (systemReset s)
  | .boundary => sample s

/-- One step of the node: the next agent of the schedule moves; with an empty schedule it is the core (R92; log 7). -/
def nodeMove (s : State) : Result :=
  match s.schedule with
  | [] => agentMove .core s
  | e :: rest => agentMove e { s with schedule := rest }

end Sys2Proof.Machine
end

