-- ==== Sys2Proof/Machine/Load.lean ====
section
/-! DEFINITION. An opcode placed where the next step fetches it: the load of a program from outside the machine (log 4, 24). -/

namespace Sys2Proof.Machine

/-- Where the two bytes of the opcode at an address are held: boot ROM, cartridge, frame buffer or SDRAM. `none` where the
decoder reaches no held bytes. -/
def opcodeCells (s : State) (addr : Word) (op : Half) : Option (List Host.Cell) :=
  if aligned .word addr then
    match decodeAddress s.params .core addr .word .read with
    | .region r off =>
      match backing s.cartLength r off, backing s.cartLength r (off + 1) with
      | some a, some b =>
        if inCartPadding s.cartLength a || inCartPadding s.cartLength b
          || (decide (r = .cart) && decide ((s.cartLength : Nat) < 4)) then none
        else some [(a, op.extractLsb' 8 8), (b, op.extractLsb' 0 8)]
      | _, _ => none
    | _ => none
  else none

/-- The opcode of `NOP` (R335). -/
def nopOpcode : Half := 0x0009

/-- A delayed branch needs an instruction in its slot: a `NOP` after it (log 24). -/
def needsSlot (op : Half) : Bool :=
  match decodeWord op with
  | some i => i.isDelayedBranch
  | none => false

/-- Place an opcode at `pc`, and a `NOP` after a delayed branch; `none` where the decoder reaches no held bytes there. -/
def placeOpcode (op : Half) (s : State) : Option State :=
  match opcodeCells s s.pc op, opcodeCells s (s.pc + 2) nopOpcode with
  | some cs, some ns => some (s.writeCells (if needsSlot op then cs ++ ns else cs))
  | _, _ => none

/-- The core about to run the opcode: running, outside a slot, its move next, no other agent's move inside it. Where `pc`
reaches no held bytes, `pc` is the base of SDRAM (log 24). -/
def loadOpcode (op : Half) (s : State) : State :=
  let ready := { s with run := .running, delaySlot := none, schedule := [], inside := [], stale := [] }
  match placeOpcode op ready with
  | some s' => s'
  | none =>
    let moved := { ready with pc := BitVec.ofNat 32 s.params.layout.sdramBase }
    (placeOpcode op moved).getD moved

end Sys2Proof.Machine
end

