-- ==== Sys2Proof/Machine/Step.lean ====
section
/-! DEFINITION. The step of the machine, and an instruction placed where the next step fetches it. -/

namespace Sys2Proof.Machine

/-- One step of one agent of the node (20_memory R92). -/
def step (s : State) : Host.Outcome State Fault Refusal := nodeMove s

/-- The state with an instruction stored where the next step fetches: its opcode is the low 16 bits of the number. -/
def State.withFetchWord (s : State) (nbits w : Nat) : State :=
  loadOpcode (BitVec.ofNat 16 (w % 2 ^ nbits)) s

end Sys2Proof.Machine
end

