-- ==== Sys2Proof/Safety.lean ====
section
/-! DEFINITION. The terms the statements about runs use: what an instruction leaves alone (frames), and the forms of the
registers and of memory that every step keeps. -/

namespace Sys2Proof

/-- The instructions that write `T` (R30). -/
def Instr.writesT : Instr → Bool
  | .clrt | .sett | .div0u | .div0s _ _ | .div1 _ _ | .cmpEqImm _ | .cmpEq _ _ | .cmpHs _ _ | .cmpGe _ _ | .cmpHi _ _
  | .cmpGt _ _ | .cmpPl _ | .cmpPz _ | .cmpStr _ _ | .tstReg _ _ | .tstImm _ | .tstB _ | .tasB _ | .dt _ | .addc _ _
  | .addv _ _ | .subc _ _ | .subv _ _ | .negc _ _ | .shal _ | .shar _ | .shll _ | .shlr _ | .rotl _ | .rotr _
  | .rotcl _ | .rotcr _ | .ldcSr _ | .ldcLSr _ | .rte => true
  | _ => false

/-- The instructions that write `SR` as a whole (R29). -/
def Instr.writesWholeSr : Instr → Bool
  | .ldcSr _ | .ldcLSr _ | .rte => true
  | _ => false

/-- The instructions that write `Q` (R32). -/
def Instr.writesQ : Instr → Bool
  | .div0u | .div0s _ _ | .div1 _ _ => true
  | i => i.writesWholeSr

/-- The instructions that write `M` (R32). -/
def Instr.writesM : Instr → Bool
  | .div0u | .div0s _ _ => true
  | i => i.writesWholeSr

/-- The instructions that write `GBR` (R34). -/
def Instr.writesGbr : Instr → Bool
  | .ldcGbr _ | .ldcLGbr _ => true
  | _ => false

/-- The instructions that write `VBR` (R35). -/
def Instr.writesVbr : Instr → Bool
  | .ldcVbr _ | .ldcLVbr _ => true
  | _ => false

/-- The instructions that write `PR` (R42). -/
def Instr.writesPr : Instr → Bool
  | .bsr _ | .bsrf _ | .jsr _ | .ldsPr _ | .ldsLPr _ => true
  | _ => false

/-- The instructions that write `MACH` (R41). -/
def Instr.writesMach : Instr → Bool
  | .macW _ _ | .macL _ _ | .dmulsL _ _ | .dmuluL _ _ | .clrmac | .ldsMach _ | .ldsLMach _ => true
  | _ => false

/-- The instructions that write `MACL` (R41). -/
def Instr.writesMacl : Instr → Bool
  | .macW _ _ | .macL _ _ | .dmulsL _ _ | .dmuluL _ _ | .mulL _ _ | .mulsW _ _ | .muluW _ _ | .clrmac | .ldsMacl _
  | .ldsLMacl _ => true
  | _ => false

end Sys2Proof

namespace Sys2Proof.Machine

/-- Every general register but those named is unchanged. -/
def SameRegsBut (ns : List Reg) (s t : State) : Prop := ∀ k : Reg, k ∉ ns → t.reg k = s.reg k

/-- Every bit of `SR` but those named is unchanged. -/
def SameSrBut (bits : List Nat) (s t : State) : Prop := ∀ i : Nat, i ∉ bits → t.sr.getLsbD i = s.sr.getLsbD i

/-- Every byte of memory is unchanged. -/
def SameBytes (s t : State) : Prop := ∀ a : Nat, t.heldByte a = s.heldByte a

/-- The frame of an instruction that stores nothing and writes no special register: the named registers, the named bits of
`SR`, `pc` and the count of draws may differ; everything else of the state is the same. -/
def Frame (ns : List Reg) (bits : List Nat) (s t : State) : Prop :=
  SameRegsBut ns s t ∧ SameSrBut bits s t ∧ SameBytes s t ∧
    t = { s with regs := t.regs, sr := t.sr, pc := t.pc, draws := t.draws }

/-- As `Frame`, with no draw taken: the frame of an instruction that reads no memory. -/
def QuietFrame (ns : List Reg) (bits : List Nat) (s t : State) : Prop :=
  Frame ns bits s t ∧ t.draws = s.draws

/-- The backing addresses of the bytes a write of the core may change: the bytes of the access itself, in SDRAM, in the frame
buffer (by its own window or the over region) or in the on-chip byte storage; none elsewhere. -/
def storedBytes (s : State) (sz : Size) (ea : Word) : List Nat :=
  match decodeAddress s.params .core ea sz .write with
  | .region .sdram off => List.range' (Config.sdramStore + off) sz.bytes
  | .region .frameBuffer off => List.range' (Config.frameBufferStore + off) sz.bytes
  | .region .over off => List.range' (Config.frameBufferStore + off) sz.bytes
  | .onChip off => if touchesRegister off sz then [] else List.range' (Config.onChipStore + off) sz.bytes
  | _ => []

/-- Does a write of the core reach a register of a controller: the on-chip registers, the system registers? -/
def reachesController (s : State) (sz : Size) (ea : Word) : Bool :=
  match decodeAddress s.params .core ea sz .write with
  | .region .system _ => true
  | .onChip off => touchesRegister off sz
  | _ => false

/-- Every byte of memory outside the bytes a write may change is unchanged. -/
def SameBytesBut (as : List Nat) (s t : State) : Prop := ∀ a : Nat, a ∉ as → t.heldByte a = s.heldByte a

/-- The frame of an instruction that writes once to memory, at `ea`: the named registers, the named bits of `SR`, `pc`, the
count of draws, the stored bytes and the list of earlier values (R98) may differ, and the controllers' registers where the
write reaches them; no other register and no other byte. -/
def StoreFrame (ns : List Reg) (bits : List Nat) (sz : Size) (ea : Word) (s t : State) : Prop :=
  SameRegsBut ns s t ∧ SameSrBut bits s t ∧ SameBytesBut (storedBytes s sz ea) s t ∧
    t = { s with
      regs := t.regs, sr := t.sr, pc := t.pc, draws := t.draws, mem := t.mem, stale := t.stale,
      intc := t.intc, dma0 := t.dma0, dma1 := t.dma1, dmaor := t.dmaor, divu := t.divu, wdt := t.wdt,
      sbycr := t.sbycr, ccr := t.ccr } ∧
    (reachesController s sz ea = false →
      t = { s with regs := t.regs, sr := t.sr, pc := t.pc, draws := t.draws, mem := t.mem, stale := t.stale })

/-- The instruction completes, in exactly the state `t`; every byte of memory is unchanged. -/
def Becomes (i : Instr) (s t : State) : Prop := exec i s = .next t ∧ SameBytes s t

/-- The instruction completes with `v` in register `n` and `pc` advanced, and leaves everything else alone. -/
def SetsReg (i : Instr) (n : Reg) (v : Word) (s : State) : Prop :=
  ∃ t, exec i s = .next t ∧ t.reg n = v ∧ t.pc = s.pc + 2 ∧ QuietFrame [n] [] s t

/-- The instruction completes with `b` in `T` and `pc` advanced, and leaves everything else alone. -/
def SetsT (i : Instr) (b : Prop) (s : State) : Prop :=
  ∃ t, exec i s = .next t ∧ (t.t = true ↔ b) ∧ t.pc = s.pc + 2 ∧ QuietFrame [] [0] s t

/-- The instruction completes with `v` in register `n`, `b` in `T` and `pc` advanced, and leaves everything else alone. -/
def SetsRegT (i : Instr) (n : Reg) (v : Word) (b : Prop) (s : State) : Prop :=
  ∃ t, exec i s = .next t ∧ t.reg n = v ∧ (t.t = true ↔ b) ∧ t.pc = s.pc + 2 ∧ QuietFrame [n] [0] s t

/-- Where the longword, word or byte at `ea` can be read, the instruction completes with `value` of it in register `n`, `pc`
advanced and everything else alone; where the read faults, the instruction stops with that fault. -/
def LoadsReg (i : Instr) (sz : Size) (ea : Word) (n : Reg) (value : Word → Word) (s : State) : Prop :=
  (∀ v s1, memRead .core sz ea s = .ok (v, s1) →
    ∃ t, exec i s = .next t ∧ t.reg n = value v ∧ t.pc = s.pc + 2 ∧ t.draws = s1.draws ∧ Frame [n] [] s t) ∧
  (∀ f, memRead .core sz ea s = .error f → exec i s = .fault f)

/-- As `LoadsReg`, from the address in register `m`, which is stepped by the access size unless it is the destination. -/
def LoadsRegStepping (i : Instr) (sz : Size) (m n : Reg) (value : Word → Word) (s : State) : Prop :=
  (∀ v s1, memRead .core sz (s.reg m) s = .ok (v, s1) →
    ∃ t, exec i s = .next t ∧ t.reg n = value v ∧ (n ≠ m → t.reg m = s.reg m + BitVec.ofNat 32 sz.bytes) ∧
      t.pc = s.pc + 2 ∧ t.draws = s1.draws ∧ Frame [m, n] [] s t) ∧
  (∀ f, memRead .core sz (s.reg m) s = .error f → exec i s = .fault f)

/-- Where `v` can be written at `ea`, the instruction completes with that write done and `pc` advanced, and leaves everything
else alone; where the write faults, the instruction stops with that fault. -/
def Stores (i : Instr) (sz : Size) (ea v : Word) (s : State) : Prop :=
  (∀ s1, memWrite .core sz ea v s = .ok s1 →
    exec i s = .next { s1 with pc := s.pc + 2 } ∧ StoreFrame [] [] sz ea s { s1 with pc := s.pc + 2 }) ∧
  (∀ f, memWrite .core sz ea v s = .error f → exec i s = .fault f)

/-- As `Stores`, at the address in register `n` less the access size, which is then the register's value. -/
def StoresStepping (i : Instr) (sz : Size) (n : Reg) (v : Word) (s : State) : Prop :=
  (∀ s1, memWrite .core sz (s.reg n - BitVec.ofNat 32 sz.bytes) v s = .ok s1 →
    ∃ t, exec i s = .next t ∧ t = { s1 with pc := s.pc + 2, regs := t.regs } ∧
      t.reg n = s.reg n - BitVec.ofNat 32 sz.bytes ∧
      StoreFrame [n] [] sz (s.reg n - BitVec.ofNat 32 sz.bytes) s t) ∧
  (∀ f, memWrite .core sz (s.reg n - BitVec.ofNat 32 sz.bytes) v s = .error f → exec i s = .fault f)

/-- Where the longword at the address in register `m` can be read, the instruction completes: register `m` is stepped by 4,
`put` takes the longword to its special register, `pc` advances; where the read faults, the instruction stops. -/
def PopsInto (i : Instr) (m : Reg) (put : State → Word → State) (s : State) : Prop :=
  (∀ v s1, memRead .core .long (s.reg m) s = .ok (v, s1) →
    Becomes i s (put { s with regs := s.regs.set m.val (s.reg m + 4), pc := s.pc + 2, draws := s1.draws } v)) ∧
  (∀ f, memRead .core .long (s.reg m) s = .error f → exec i s = .fault f)

/-- The delayed branch completes its own part: the target is latched, `in_slot` is set, `pc` is the slot's address, `PR` is
as said, and everything else is left alone. -/
def Delays (i : Instr) (target : Word) (link : Word) (s : State) : Prop :=
  Becomes i s { s with delaySlot := some target, pc := s.pc + 2, pr := link }

/-- Where the moves that fall inside stop, the outcome is their stop. -/
def StopsWith (m o : Result) : Prop := (∀ f, m = .fault f → o = .fault f) ∧ (∀ r, m = .refused r → o = .refused r)

/-- Taking an exception (R404): where the two pushes and the vector's longword are answered, the outcome is the entry. The
saved `PC` is pushed below the saved `SR`, `R15` ends 8 lower, `pc` is the handler; an interrupt sets `IMASK`; no other
register of the core changes, and each access changes no byte outside its own. Other agents may move between the three
accesses (`interpose`, R94). Where an access, or a move of theirs, stops, the entry stops so (R409). -/
def EntersHandler (o : Result) (vector : Nat) (savedPc : Word) (newImask : Option (BitVec 4)) (s : State) : Prop :=
  (∀ f, memWrite .core .long (s.reg 15 - 4) s.sr (s.setReg 15 (s.reg 15 - 4)) = .error f → o = .fault f) ∧
  ∀ s1, memWrite .core .long (s.reg 15 - 4) s.sr (s.setReg 15 (s.reg 15 - 4)) = .ok s1 →
    SameBytesBut (storedBytes s .long (s.reg 15 - 4)) s s1 ∧ StopsWith (interpose s1) o ∧
    ∀ s2, interpose s1 = .next s2 →
      (∀ f, memWrite .core .long (s.reg 15 - 8) savedPc (s2.setReg 15 (s.reg 15 - 8)) = .error f → o = .fault f) ∧
      ∀ s3, memWrite .core .long (s.reg 15 - 8) savedPc (s2.setReg 15 (s.reg 15 - 8)) = .ok s3 →
        SameBytesBut (storedBytes s .long (s.reg 15 - 8)) s2 s3 ∧ StopsWith (interpose (s3.withMask newImask)) o ∧
        ∀ s4, interpose (s3.withMask newImask) = .next s4 →
          (∀ f, memRead .core .long (s.vbr + BitVec.ofNat 32 (4 * vector)) s4 = .error f → o = .fault f) ∧
          ∀ handler s5, memRead .core .long (s.vbr + BitVec.ofNat 32 (4 * vector)) s4 = .ok (handler, s5) →
            ∃ t, o = .next t ∧ t = { s5 with pc := handler } ∧ SameBytes s4 t ∧ t.reg 15 = s.reg 15 - 8 ∧
              SameRegsBut [15] s t ∧ SameSrBut [4, 5, 6, 7] s t ∧ (newImask = none → t.sr = s.sr) ∧
              (∀ l, newImask = some l → t.imask = l) ∧ t.gbr = s.gbr ∧ t.vbr = s.vbr ∧ t.pr = s.pr ∧
              t.mach = s.mach ∧ t.macl = s.macl ∧ t.run = s.run ∧ t.delaySlot = s.delaySlot

/-- The address map and the sizes are at the defaults of R6 and R74. -/
def AtDefaultMap (s : State) : Prop := s.params.layout = Config.defaultLayout

/-- A 28-bit address of the default map that lies in no region: the gaps between the rows of R74. -/
def InGap (id : CoreId) (x : Nat) : Prop :=
  ((if id = .master then 0x800 else 0x400) ≤ x ∧ x < 0x4000) ∨ (0x4400 ≤ x ∧ x < 0x2000000) ∨
  (0x2400000 ≤ x ∧ x < 0x4000000) ∨ (0x4040000 ≤ x ∧ x < 0x6000000) ∨ 0x6040000 ≤ x

/-- A 28-bit address of a ROM of the default map: the node's boot ROM, the cartridge (R74). -/
def InRomWindow (id : CoreId) (x : Nat) : Prop :=
  x < (if id = .master then 0x800 else 0x400) ∨ (0x2000000 ≤ x ∧ x < 0x2400000)

/-- An access size the external registers refuse: a longword to the system and video registers, all but words to the palette
(R74). -/
def WrongSizeThere (sz : Size) (x : Nat) : Prop :=
  (0x4000 ≤ x ∧ x < 0x4200 ∧ sz = .long) ∨ (0x4200 ≤ x ∧ x < 0x4400 ∧ sz ≠ .word)

/-- The accesses the decoder refuses at an address outside the on-chip block, on the default map: through the aliases 0b011 to
0b111 all of them (R86); through 0b000 and 0b001 those to a gap, those of a refused size, and writes to a ROM (R70, R75, R77);
through the purge alias 0b010 the reads (R82). -/
def Refused (id : CoreId) (kind : AccessKind) (sz : Size) (a : Word) : Prop :=
  3 ≤ a.toNat / 2 ^ 29 ∨ (a.toNat / 2 ^ 29 = 2 ∧ kind = .read) ∨
  (a.toNat / 2 ^ 29 ≤ 1 ∧
    (InGap id (a.toNat % 2 ^ 28) ∨ WrongSizeThere sz (a.toNat % 2 ^ 28) ∨
      (kind = .write ∧ InRomWindow id (a.toNat % 2 ^ 28))))

/-- `SR` has its reserved bits 0 (R29). -/
def MaskedSr (s : State) : Prop := s.sr &&& ~~~srMask = 0

/-- The stores are in their canonical form. -/
def CanonicalMemory (s : State) : Prop := s.mem.wf = true

/-- Between two steps the core is outside a delay slot (R45). -/
def OutsideSlot (s : State) : Prop := s.delaySlot = none

/-- The reserved bits of a DMA channel's registers read 0 (R457, R458, R459, R460). -/
def DmaChannel.form (p : Params) (d : DmaChannel) : Bool :=
  d.tcr &&& ~~~tcrMask p == 0 && d.chcr &&& 0xFFFF0000 == 0 && d.vcrdma &&& 0xFFFFFF00 == 0 && d.drcr &&& 0xFC == 0

/-- The reserved bits of the INTC's registers read 0 (R450), and the DIVU never raises its interrupt (R477). -/
def Intc.form (i : Intc) : Bool :=
  i.ipra &&& 0x000F == 0 && i.iprb &&& 0x00FF == 0 && i.vcra &&& 0x8080 == 0 && i.vcrb &&& 0x8080 == 0 &&
  i.vcrc &&& 0x8080 == 0 && i.vcrd &&& 0x8080 == 0 && i.vcrwdt &&& 0x8080 == 0 && i.icr &&& 0xFEFE == 0 &&
  !i.pending.divu

/-- The controllers' registers are as the spec says they read: reserved bits at their fixed values (R450, R457 to R460, R477,
R483, R487), `NMIF` and `AE` never set (R460), the DIVU's interrupt never pending (R477). -/
def ControllerForm (s : State) : Prop :=
  s.intc.form = true ∧ s.dma0.form s.params = true ∧ s.dma1.form s.params = true ∧ s.dmaor &&& ~~~(0x9 : Word) = 0 ∧
    s.divu.dvcr &&& ~~~(0x3 : Word) = 0 ∧ s.divu.vcrdiv &&& 0xFFFF0000 = 0 ∧
    s.wdt.wtcsr &&& 0x18 = 0x18 ∧ s.wdt.rstcsr &&& 0x1F = 0x1F

/-- The invariant every step keeps. -/
def Inv (s : State) : Prop := MaskedSr s ∧ CanonicalMemory s ∧ OutsideSlot s ∧ ControllerForm s

/-- A safe step: one that answers a next state, neither a fault nor a refusal (60_exceptions R403). -/
def SafeStep (s : State) : Prop := ∃ t : State, step s = .next t

end Sys2Proof.Machine
end

