-- ==== Sys2Proof/WellFormed.lean ====
section
/-! DEFINITION. When an instruction is well formed. The range of every operand is carried by its type in
Sys2Proof/Syntax.lean (R22, R112: "an out-of-range register index cannot occur given the 4-bit field width"), so an
instruction alone has nothing left to check. What the spec restricts is the POSITION of an instruction (R124): what may
stand in the delay slot of a delayed branch. -/

namespace Sys2Proof

/-- May this opcode's decoding stand in a delay slot: not an instruction that writes `pc`, not an illegal opcode
(R124, R293, R511), and a PC-relative form only where `PCREL_IN_SLOT` gives it a base (R292). -/
def slotWellFormed (p : Params) : Option Instr → Bool
  | none => false
  | some i => !i.writesPc && (!i.isPcRelative || p.pcrelInSlot != .refuse)

/-- An instruction and the decoding of the opcode after it are well formed together: after a delayed branch stands what
may stand in its slot (R510, R511). -/
def wellFormedPair (p : Params) (i : Instr) (following : Option Instr) : Bool :=
  !i.isDelayedBranch || slotWellFormed p following

end Sys2Proof
end

