-- ==== Sys2Proof/Certificates/Slice0/Obligations.lean ====
section
/-! DEFINITION. The statements for the provers, from the numbered rules of the spec. The instructions' statements are in the
terms of Sys2Proof/Safety.lean (`SetsReg`, `LoadsReg`, `Stores`, `Becomes`, …): each says that exec answers a next state,
which one, and that everything else is unchanged. -/

open Sys2Proof Sys2Proof.Machine

/-! ### Encoding -/

/-- R111, R117, R120: decoding the opcode of any instruction, whatever its operands, gives that instruction back, and leaves
the bytes after its two. -/
def Obligations.DecodeInvertsEncode : Prop :=
  ∀ (i : Instr) (rest : List Byte),
    decodeWord (encode i) = some i ∧ decode (opcodeBytes (encode i) ++ rest) = .instr i rest

/-- R118, R121: every opcode either is the encoding of exactly the instruction it decodes to, or is the encoding of none and
decodes to `ILLEGAL`. -/
def Obligations.OpcodesDecodeUniquelyOrAreIllegal : Prop :=
  ∀ w : Half,
    (∃ i, decodeWord w = some i ∧ encode i = w ∧ ∀ j, encode j = w → j = i) ∨
    (decodeWord w = none ∧ ∀ j, encode j ≠ w)

/-- R120, R121: opcodes written out from the patterns decode to the instructions they stand for; S1 of 95_test_vectors. -/
def Obligations.WrittenOutOpcodesDecode : Prop :=
  decodeWord 0b0000000000001001 = some .nop ∧ decodeWord 0b0000000000001011 = some .rts ∧
  decodeWord 0b1110000111111111 = some (.movImm 1 0xFF) ∧ decodeWord 0b0011100101101100 = some (.addReg 6 9) ∧
  decodeWord 0b0100100101101111 = some (.macW 6 9) ∧ decodeWord 0b1000111110011100 = some (.bfs 0x9C) ∧
  decodeWord 0b1010100111000101 = some (.bra 0x9C5) ∧ decodeWord 0b0001100101101100 = some (.movLStoreDisp 6 9 0xC) ∧
  decodeWord 0b1100110110100101 = some (.andB 0xA5) ∧ decodeWord 0b0100100100100110 = some (.ldsLPr 9) ∧
  decodeWord 0b0100100100100101 = some (.rotcr 9) ∧
  decodeWord 0x0108 = none ∧ decodeWord 0xFFFF = none ∧ decodeWord 0x0000 = none

/-! ### The sequencer -/

/-- R24, R25, R94, R352, R410: the core's step fetches the word at `pc`, lets the moves that fall there happen (`interpose`),
runs the instruction it decodes to, lets other agents move once more (R94), and samples the interrupts of the state that
leaves; a delayed branch's slot runs in between (see DelayedBranchRunsItsSlot); a stop of the instruction, or of a move, is
the step's. An opcode of no instruction is the illegal-instruction exception. (That other agents move at numbered points
inside an instruction is the model's form of R94: log 20.) -/
def Obligations.StepRunsTheDecodedInstruction : Prop :=
  ∀ (s s1 s2 : State) (op : Word),
    s.schedule = [] → s.run = .running → s.delaySlot = none → memRead .core .word s.pc s = .ok (op, s1) →
    StopsWith (interpose s1) (step s) ∧
    (interpose s1 = .next s2 →
      (∀ i : Instr, decodeWord (op.setWidth 16) = some i →
        (∀ t, exec i s2 = .next t → t.delaySlot = none → step s = andThen (interpose t) sample) ∧
        (∀ t target, exec i s2 = .next t → t.delaySlot = some target →
          step s = andThen (andThen (andThen (interpose t) runSlot) interpose) sample) ∧
        (∀ f, exec i s2 = .fault f → step s = .fault f) ∧
        (∀ r, exec i s2 = .refused r → step s = .refused r)) ∧
      (decodeWord (op.setWidth 16) = none → ∀ t, enter 4 s.pc none s2 = .next t →
        step s = andThen (interpose t) sample))

/-- R291: for a delayed branch B followed by X, one step is B's own effects, then X's at the slot's address, then `pc` at the
target B latched; the interrupts are sampled only after the pair (R294). Other agents' moves may fall after each fetch and
before the slot's, and after the slot (`interpose`, R94; log 20). -/
def Obligations.DelayedBranchRunsItsSlot : Prop :=
  ∀ (s s1 s2 b b1 b2 b3 t : State) (opB opX : Word) (B X : Instr),
    s.schedule = [] → s.run = .running → s.delaySlot = none →
    memRead .core .word s.pc s = .ok (opB, s1) → interpose s1 = .next s2 →
    decodeWord (opB.setWidth 16) = some B → B.isDelayedBranch = true →
    exec B s2 = .next b → interpose b = .next b1 →
    memRead .core .word b1.pc b1 = .ok (opX, b2) → interpose b2 = .next b3 →
    decodeWord (opX.setWidth 16) = some X → exec X b3 = .next t →
    b.pc = s.pc + 2 ∧ b1.pc = s.pc + 2 ∧
    ∃ target, b.delaySlot = some target ∧
      step s = andThen (interpose { t with pc := target, delaySlot := none }) sample

/-- R25: an instruction that does not assign `pc` ends with `pc + 2`, in a slot or outside one, and neither enters nor leaves
a slot. -/
def Obligations.OtherInstructionsAdvancePcByTwo : Prop :=
  ∀ (i : Instr) (s t : State), i.writesPc = false → exec i s = .next t →
    t.pc = s.pc + 2 ∧ t.delaySlot = s.delaySlot

/-- R293: each of the thirteen instructions that write `pc`, and every illegal opcode, faults in a delay slot before it has
any effect. -/
def Obligations.PcWritersAndIllegalOpcodesFaultInSlot : Prop :=
  ∀ (s : State) (target : Word), s.delaySlot = some target →
    (∀ i : Instr, i.writesPc = true → exec i s = .fault (.slotIllegal s.pc)) ∧
    (∀ op : Half, decodeWord op = none → execOpcode op s = .fault (.slotIllegal s.pc))

/-- R92, R93, R94, R410, R434, R442 (how the agents' order stands in the state is the model's choice, log 7, 8 and 20): the agent
at the head of the schedule moves, the core when the schedule is empty; the core samples after its own steps, at a boundary
event and, while it sleeps, after another agent's move. What each move is; the Host raises board sources and lowers none. At a
point inside an instruction the moves of the next batch happen, and none when no batch is left; whatever they are, they leave
the core, its pending order and every on-chip register but those of the DMA channels, the timer and the INTC alone. -/
def Obligations.AgentsMoveInScheduleOrder : Prop :=
  (∀ (s : State) (rest : List Event),
    (s.schedule = [] → step s = andThen (coreMove s) sample) ∧
    (s.schedule = .core :: rest → step s = andThen (coreMove { s with schedule := rest }) sample) ∧
    (s.schedule = .boundary :: rest → step s = sample { s with schedule := rest }) ∧
    (∀ m t, s.schedule = .move m :: rest → moveStep m { s with schedule := rest } = .next t →
      (t.run = .running → step s = .next t) ∧ (t.run = .sleeping → step s = sample t)) ∧
    (∀ m, s.schedule = .move m :: rest → StopsWith (moveStep m { s with schedule := rest }) (step s))) ∧
  (∀ s : State,
    (∀ c t, dmaMove c s = .ok t → moveStep (.dma c) s = .next t) ∧
    (∀ c f, dmaMove c s = .error f → moveStep (.dma c) s = .fault f) ∧
    (∀ n, moveStep (.wdt n) s = s.wdtStep n) ∧
    (∀ b, moveStep (.hostRaise b) s =
      .next { s with intc := { s.intc with pending := s.intc.pending.put (.board b) true } }) ∧
    (∀ c v, ∃ t, moveStep (.hostTrigger c v) s = .next t ∧ (t.chan c).extTrigger = v ∧
      t = { s with dma0 := { s.dma0 with extTrigger := t.dma0.extTrigger }
                   dma1 := { s.dma1 with extTrigger := t.dma1.extTrigger } } ∧
      ∀ other, other ≠ c → t.chan other = s.chan other)) ∧
  (∀ (s t : State),
    (s.inside = [] → interpose s = .next s) ∧
    (∀ rest, s.inside = [] :: rest → interpose s = .next { s with inside := rest }) ∧
    (∀ m ms rest, s.inside = (m :: ms) :: rest →
      interpose s = andThen (moveStep m { s with inside := rest }) (moveSteps ms)) ∧
    (interpose s = .next t →
      t = { s with
        mem := t.mem, stale := t.stale, intc := t.intc, dma0 := t.dma0, dma1 := t.dma1, wdt := t.wdt, fbBank := t.fbBank
        draws := t.draws, inside := s.inside.tail }))

/-! ### Data transfer -/

/-- R141, R144, R176 to R179: the register-to-register moves. -/
def Obligations.RegisterMovesWriteTheirResult : Prop :=
  ∀ (s : State) (m n : Reg) (imm : Byte),
    SetsReg (.movImm n imm) n (BitVec.ofInt 32 imm.toInt) s ∧
    SetsReg (.movReg m n) n (s.reg m) s ∧
    SetsReg (.movt n) n (if s.t then 1 else 0) s ∧
    SetsReg (.swapB m n) n
      ((s.reg m &&& 0xFFFF0000) ||| ((s.reg m &&& 0xFF) <<< 8) ||| ((s.reg m >>> 8) &&& 0xFF)) s ∧
    SetsReg (.swapW m n) n ((s.reg m <<< 16) ||| (s.reg m >>> 16)) s ∧
    SetsReg (.xtrct m n) n ((s.reg m <<< 16) ||| (s.reg n >>> 16)) s

/-- R142, R143, R175, R292: the three PC-relative forms. Outside a slot the base is `pc + 4`, its low two bits cleared for the
longword form and `MOVA`; in a slot, by `PCREL_IN_SLOT`: refused, based on the branch target plus 2, or based on the slot's
own address plus 4. -/
def Obligations.PcRelativeFormsUseTheirBase : Prop :=
  ∀ (s : State) (n : Reg) (d : Byte),
    (∀ base : Word,
      (s.delaySlot = none ∧ base = s.pc + 4) ∨
      (∃ target, s.delaySlot = some target ∧ s.params.pcrelInSlot = .targetBased ∧ base = target + 2) ∨
      (∃ target, s.delaySlot = some target ∧ s.params.pcrelInSlot = .slotBased ∧ base = s.pc + 4) →
      LoadsReg (.movWLoadPc n d) .word (base + d.setWidth 32 * 2) n sext16 s ∧
      LoadsReg (.movLLoadPc n d) .long ((base &&& 0xFFFFFFFC) + d.setWidth 32 * 4) n id s ∧
      SetsReg (.mova d) 0 ((base &&& 0xFFFFFFFC) + d.setWidth 32 * 4) s) ∧
    (∀ target, s.delaySlot = some target → s.params.pcrelInSlot = .refuse →
      exec (.movWLoadPc n d) s = .refused (.pcRelInSlot s.pc) ∧ exec (.movLLoadPc n d) s = .refused (.pcRelInSlot s.pc) ∧
        exec (.mova d) s = .refused (.pcRelInSlot s.pc))

/-- R148 to R150, R160 to R162, R166 to R168, R172 to R174: every load without a step, each at the address of its mode; bytes
and words are sign-extended. -/
def Obligations.LoadsReadAtTheirEffectiveAddress : Prop :=
  ∀ (s : State) (m n : Reg) (d4 : Nibble) (d8 : Byte),
    LoadsReg (.movBLoad m n) .byte (s.reg m) n sext8 s ∧
    LoadsReg (.movWLoad m n) .word (s.reg m) n sext16 s ∧
    LoadsReg (.movLLoad m n) .long (s.reg m) n id s ∧
    LoadsReg (.movBLoadDisp m d4) .byte (s.reg m + d4.setWidth 32) 0 sext8 s ∧
    LoadsReg (.movWLoadDisp m d4) .word (s.reg m + d4.setWidth 32 * 2) 0 sext16 s ∧
    LoadsReg (.movLLoadDisp m n d4) .long (s.reg m + d4.setWidth 32 * 4) n id s ∧
    LoadsReg (.movBLoadIdx m n) .byte (s.reg m + s.reg 0) n sext8 s ∧
    LoadsReg (.movWLoadIdx m n) .word (s.reg m + s.reg 0) n sext16 s ∧
    LoadsReg (.movLLoadIdx m n) .long (s.reg m + s.reg 0) n id s ∧
    LoadsReg (.movBLoadGbr d8) .byte (s.gbr + d8.setWidth 32) 0 sext8 s ∧
    LoadsReg (.movWLoadGbr d8) .word (s.gbr + d8.setWidth 32 * 2) 0 sext16 s ∧
    LoadsReg (.movLLoadGbr d8) .long (s.gbr + d8.setWidth 32 * 4) 0 id s

/-- R154 to R156: the post-increment loads; with `n = m` the loaded value stays. -/
def Obligations.PostIncrementLoadsStepTheirPointer : Prop :=
  ∀ (s : State) (m n : Reg),
    LoadsRegStepping (.movBLoadInc m n) .byte m n sext8 s ∧
    LoadsRegStepping (.movWLoadInc m n) .word m n sext16 s ∧
    LoadsRegStepping (.movLLoadInc m n) .long m n id s

/-- R145 to R147, R157 to R159, R163 to R165, R169 to R171: every store without a step, each at the address of its mode. -/
def Obligations.StoresWriteAtTheirEffectiveAddress : Prop :=
  ∀ (s : State) (m n : Reg) (d4 : Nibble) (d8 : Byte),
    Stores (.movBStore m n) .byte (s.reg n) (s.reg m) s ∧
    Stores (.movWStore m n) .word (s.reg n) (s.reg m) s ∧
    Stores (.movLStore m n) .long (s.reg n) (s.reg m) s ∧
    Stores (.movBStoreDisp n d4) .byte (s.reg n + d4.setWidth 32) (s.reg 0) s ∧
    Stores (.movWStoreDisp n d4) .word (s.reg n + d4.setWidth 32 * 2) (s.reg 0) s ∧
    Stores (.movLStoreDisp m n d4) .long (s.reg n + d4.setWidth 32 * 4) (s.reg m) s ∧
    Stores (.movBStoreIdx m n) .byte (s.reg n + s.reg 0) (s.reg m) s ∧
    Stores (.movWStoreIdx m n) .word (s.reg n + s.reg 0) (s.reg m) s ∧
    Stores (.movLStoreIdx m n) .long (s.reg n + s.reg 0) (s.reg m) s ∧
    Stores (.movBStoreGbr d8) .byte (s.gbr + d8.setWidth 32) (s.reg 0) s ∧
    Stores (.movWStoreGbr d8) .word (s.gbr + d8.setWidth 32 * 2) (s.reg 0) s ∧
    Stores (.movLStoreGbr d8) .long (s.gbr + d8.setWidth 32 * 4) (s.reg 0) s

/-- R151 to R153, R340 to R342, R347 to R349: the pre-decrement stores, of a general, a control or a system register; with
`n = m` the old value of the register is stored. -/
def Obligations.PreDecrementStoresStepTheirPointer : Prop :=
  ∀ (s : State) (m n : Reg),
    StoresStepping (.movBStoreDec m n) .byte n (s.reg m) s ∧
    StoresStepping (.movWStoreDec m n) .word n (s.reg m) s ∧
    StoresStepping (.movLStoreDec m n) .long n (s.reg m) s ∧
    StoresStepping (.stcLSr n) .long n s.sr s ∧
    StoresStepping (.stcLGbr n) .long n s.gbr s ∧
    StoresStepping (.stcLVbr n) .long n s.vbr s ∧
    StoresStepping (.stsLMach n) .long n s.mach s ∧
    StoresStepping (.stsLMacl n) .long n s.macl s ∧
    StoresStepping (.stsLPr n) .long n s.pr s

/-! ### Arithmetic -/

/-- R201, R202, R220 to R223, R229, R231: the results that leave `T` alone; all sums wrap modulo 2^32. -/
def Obligations.AddSubtractNegateExtend : Prop :=
  ∀ (s : State) (m n : Reg) (imm : Byte),
    SetsReg (.addReg m n) n (BitVec.ofNat 32 ((s.reg n).toNat + (s.reg m).toNat)) s ∧
    SetsReg (.addImm n imm) n (BitVec.ofInt 32 ((s.reg n).toInt + imm.toInt)) s ∧
    SetsReg (.sub m n) n (BitVec.ofInt 32 ((s.reg n).toInt - (s.reg m).toInt)) s ∧
    SetsReg (.neg m n) n (BitVec.ofInt 32 (-(s.reg m).toInt)) s ∧
    SetsReg (.extsB m n) n (BitVec.ofInt 32 ((s.reg m).setWidth 8).toInt) s ∧
    SetsReg (.extsW m n) n (BitVec.ofInt 32 ((s.reg m).setWidth 16).toInt) s ∧
    SetsReg (.extuB m n) n (s.reg m &&& 0xFF) s ∧
    SetsReg (.extuW m n) n (s.reg m &&& 0xFFFF) s

/-- R203, R204, R219, R230, R232, R233: the carry, the borrow and the signed overflow. -/
def Obligations.CarryBorrowAndOverflowSetT : Prop :=
  ∀ (s : State) (m n : Reg),
    SetsRegT (.addc m n) n (s.reg n + s.reg m + boolWord s.t)
      (2 ^ 32 ≤ (s.reg n).toNat + (s.reg m).toNat + s.t.toNat) s ∧
    SetsRegT (.addv m n) n (s.reg n + s.reg m)
      ((s.reg n).toInt + (s.reg m).toInt < -2 ^ 31 ∨ 2 ^ 31 - 1 < (s.reg n).toInt + (s.reg m).toInt) s ∧
    SetsRegT (.subc m n) n (s.reg n - s.reg m - boolWord s.t) ((s.reg n).toNat < (s.reg m).toNat + s.t.toNat) s ∧
    SetsRegT (.subv m n) n (s.reg n - s.reg m)
      ((s.reg n).toInt - (s.reg m).toInt < -2 ^ 31 ∨ 2 ^ 31 - 1 < (s.reg n).toInt - (s.reg m).toInt) s ∧
    SetsRegT (.negc m n) n (0 - s.reg m - boolWord s.t) (s.reg m ≠ 0 ∨ s.t = true) s ∧
    SetsRegT (.dt n) n (s.reg n - 1) (s.reg n = 1) s

/-- R205 to R213, R259, R260: the comparisons and tests write `T` alone. -/
def Obligations.ComparisonsSetTOnly : Prop :=
  ∀ (s : State) (m n : Reg) (imm : Byte),
    SetsT (.cmpEqImm imm) ((s.reg 0).toInt = imm.toInt) s ∧
    SetsT (.cmpEq m n) (s.reg n = s.reg m) s ∧
    SetsT (.cmpHs m n) ((s.reg m).toNat ≤ (s.reg n).toNat) s ∧
    SetsT (.cmpGe m n) ((s.reg m).toInt ≤ (s.reg n).toInt) s ∧
    SetsT (.cmpHi m n) ((s.reg m).toNat < (s.reg n).toNat) s ∧
    SetsT (.cmpGt m n) ((s.reg m).toInt < (s.reg n).toInt) s ∧
    SetsT (.cmpPl n) (0 < (s.reg n).toInt) s ∧
    SetsT (.cmpPz n) (0 ≤ (s.reg n).toInt) s ∧
    SetsT (.cmpStr m n)
      (∃ k : Nat, k < 4 ∧ (s.reg n).extractLsb' (8 * k) 8 = (s.reg m).extractLsb' (8 * k) 8) s ∧
    SetsT (.tstReg m n) (s.reg n &&& s.reg m = 0) s ∧
    SetsT (.tstImm imm) (s.reg 0 &&& imm.setWidth 32 = 0) s

/-- R214 to R216: the division steps. `Q` is bit 8 of `SR`, `M` bit 9, `T` bit 0. -/
def Obligations.DivisionStepsUpdateQMT : Prop :=
  ∀ (s : State) (m n : Reg),
    (∃ t, exec (.div1 m n) s = .next t ∧ t.pc = s.pc + 2 ∧ QuietFrame [n] [0, 8] s t ∧
      (let v := (s.reg n <<< 1) ||| boolWord s.t
       t.reg n = (if s.q = s.m then v - s.reg m else v + s.reg m) ∧
       (t.q = true ↔
         ((s.reg n).getLsbD 31 ^^ s.m ^^
           (if s.q = s.m then decide (v.toNat < (s.reg m).toNat)
            else decide (2 ^ 32 ≤ v.toNat + (s.reg m).toNat))) = true) ∧
       (t.t = true ↔ t.q = t.m))) ∧
    (∃ t, exec (.div0s m n) s = .next t ∧ t.pc = s.pc + 2 ∧ QuietFrame [] [0, 8, 9] s t ∧
      (t.q = true ↔ (s.reg n).toInt < 0) ∧ (t.m = true ↔ (s.reg m).toInt < 0) ∧ (t.t = true ↔ t.q ≠ t.m)) ∧
    (∃ t, exec .div0u s = .next t ∧ t.pc = s.pc + 2 ∧ QuietFrame [] [0, 8, 9] s t ∧
      t.q = false ∧ t.m = false ∧ t.t = false)

/-- R217, R218, R226 to R228: the multiplications; the short ones leave `MACH` alone. -/
def Obligations.MultiplicationsWriteMac : Prop :=
  ∀ (s : State) (m n : Reg),
    (∃ t, Becomes (.dmulsL m n) s t ∧ t.mac = BitVec.ofInt 64 ((s.reg n).toInt * (s.reg m).toInt) ∧
      t = { s with mach := t.mach, macl := t.macl, pc := s.pc + 2 }) ∧
    (∃ t, Becomes (.dmuluL m n) s t ∧ t.mac = BitVec.ofNat 64 ((s.reg n).toNat * (s.reg m).toNat) ∧
      t = { s with mach := t.mach, macl := t.macl, pc := s.pc + 2 }) ∧
    Becomes (.mulL m n) s
      { s with macl := BitVec.ofNat 32 ((s.reg n).toNat * (s.reg m).toNat), pc := s.pc + 2 } ∧
    Becomes (.mulsW m n) s
      { s with
        macl := BitVec.ofInt 32 (((s.reg n).setWidth 16).toInt * ((s.reg m).setWidth 16).toInt), pc := s.pc + 2 } ∧
    Becomes (.muluW m n) s
      { s with
        macl := BitVec.ofNat 32 (((s.reg n).setWidth 16).toNat * ((s.reg m).setWidth 16).toNat), pc := s.pc + 2 }

/-- R224, R225: the two reads of a multiply-accumulate, `@Rn` first and its register stepped before `@Rm` is formed, and the
accumulation (other agents' moves may fall between the reads, R94): at 64 bits with `S` clear; with `S` set, clamped to 48
bits for `MAC.L` and to 32 bits in `MACL` for `MAC.W`. With `S` set and an accumulator outside 48 bits the result of `MAC.L`
is a draw: nothing is said of its value. -/
def Obligations.MultiplyAccumulateAddsAndSaturates : Prop :=
  ∀ (s s1 s2 s3 : State) (m n : Reg) (a b : Word),
    (memRead .core .long (s.reg n) s = .ok (a, s1) →
      interpose (s1.setReg n (s.reg n + 4)) = .next s2 →
      memRead .core .long ((s.setReg n (s.reg n + 4)).reg m) s2 = .ok (b, s3) →
      ∃ t, exec (.macL m n) s = .next t ∧ t.pc = s.pc + 2 ∧ SameBytes s2 t ∧ SameRegsBut [m, n] s t ∧
        t = { s2 with regs := t.regs, mach := t.mach, macl := t.macl, pc := t.pc, draws := t.draws } ∧
        t.reg m = (s.setReg n (s.reg n + 4)).reg m + 4 ∧ (n ≠ m → t.reg n = s.reg n + 4) ∧
        (s.sBit = false → t.mac = BitVec.ofInt 64 (s.mac.toInt + a.toInt * b.toInt)) ∧
        (s.sBit = true → -2 ^ 47 ≤ s.mac.toInt → s.mac.toInt ≤ 2 ^ 47 - 1 →
          t.mac.toInt = max (-2 ^ 47) (min (s.mac.toInt + a.toInt * b.toInt) (2 ^ 47 - 1)))) ∧
    (memRead .core .word (s.reg n) s = .ok (a, s1) →
      interpose (s1.setReg n (s.reg n + 2)) = .next s2 →
      memRead .core .word ((s.setReg n (s.reg n + 2)).reg m) s2 = .ok (b, s3) →
      ∃ t, exec (.macW m n) s = .next t ∧ t.pc = s.pc + 2 ∧ SameBytes s2 t ∧ SameRegsBut [m, n] s t ∧
        t = { s2 with regs := t.regs, mach := t.mach, macl := t.macl, pc := t.pc, draws := t.draws } ∧
        t.reg m = (s.setReg n (s.reg n + 2)).reg m + 2 ∧ (n ≠ m → t.reg n = s.reg n + 2) ∧
        (let p := (a.setWidth 16).toInt * (b.setWidth 16).toInt
         (s.sBit = false → t.mac = BitVec.ofInt 64 (s.mac.toInt + p)) ∧
         (s.sBit = true →
           t.macl.toInt = max (-2 ^ 31) (min (s.macl.toInt + p) (2 ^ 31 - 1)) ∧
           t.mach = if -2 ^ 31 ≤ s.macl.toInt + p ∧ s.macl.toInt + p ≤ 2 ^ 31 - 1 then s.mach else s.mach ||| 1)))

/-! ### Logic and shifts -/

/-- R251, R252, R254 to R256, R262, R263: the logic results in registers. -/
def Obligations.LogicResultsInRegisters : Prop :=
  ∀ (s : State) (m n : Reg) (imm : Byte),
    SetsReg (.andReg m n) n (s.reg n &&& s.reg m) s ∧
    SetsReg (.andImm imm) 0 (s.reg 0 &&& imm.setWidth 32) s ∧
    SetsReg (.orReg m n) n (s.reg n ||| s.reg m) s ∧
    SetsReg (.orImm imm) 0 (s.reg 0 ||| imm.setWidth 32) s ∧
    SetsReg (.xorReg m n) n (s.reg n ^^^ s.reg m) s ∧
    SetsReg (.xorImm imm) 0 (s.reg 0 ^^^ imm.setWidth 32) s ∧
    SetsReg (.notReg m n) n (s.reg m ^^^ 0xFFFFFFFF) s

/-- R253, R257, R264, R258, R261: one read of the byte, then one write of the result at the same address. Between the two of
`AND.B`, `OR.B`, `XOR.B` other agents may move (`interpose`, R68); nothing falls between those of `TAS.B` (R68, R97), which
reads around the cache, sets bit 7 and says in `T` whether the byte was 0; `TST.B` only reads. -/
def Obligations.MemoryByteLogicReadsThenWrites : Prop :=
  ∀ (s s1 s2 : State) (n : Reg) (imm : Byte) (b : Word),
    (memRead .core .byte (s.gbr + s.reg 0) s = .ok (b, s1) →
      (interpose s1 = .next s2 →
        (∀ t, memWrite .core .byte (s.gbr + s.reg 0) (b &&& imm.setWidth 32) s2 = .ok t →
          exec (.andB imm) s = .next { t with pc := s.pc + 2 } ∧
          StoreFrame [] [] .byte (s.gbr + s.reg 0) s2 { t with pc := s.pc + 2 }) ∧
        (∀ t, memWrite .core .byte (s.gbr + s.reg 0) (b ||| imm.setWidth 32) s2 = .ok t →
          exec (.orB imm) s = .next { t with pc := s.pc + 2 } ∧
          StoreFrame [] [] .byte (s.gbr + s.reg 0) s2 { t with pc := s.pc + 2 }) ∧
        (∀ t, memWrite .core .byte (s.gbr + s.reg 0) (b ^^^ imm.setWidth 32) s2 = .ok t →
          exec (.xorB imm) s = .next { t with pc := s.pc + 2 } ∧
          StoreFrame [] [] .byte (s.gbr + s.reg 0) s2 { t with pc := s.pc + 2 })) ∧
      (∃ t, exec (.tstB imm) s = .next t ∧ (t.t = true ↔ b &&& imm.setWidth 32 = 0) ∧ t.pc = s.pc + 2 ∧
        Frame [] [0] s t)) ∧
    (memReadUncached .byte (s.reg n) s = .ok (b, s1) →
      ∀ s3, memWrite .core .byte (s.reg n) (b ||| 0x80) s1 = .ok s3 →
        ∃ t, exec (.tasB n) s = .next t ∧ (t.t = true ↔ b = 0) ∧ t.pc = s.pc + 2 ∧
          t = { s3 with pc := t.pc, sr := t.sr } ∧ StoreFrame [] [0] .byte (s.reg n) s t)

/-- R271 to R284: the one-bit shifts and rotates, whose `T` is the bit shifted out; the shifts by 2, 8 and 16 fill with zeros
and leave `T` alone. -/
def Obligations.ShiftsAndRotates : Prop :=
  ∀ (s : State) (n : Reg),
    SetsRegT (.rotl n) n ((s.reg n).rotateLeft 1) ((s.reg n).getLsbD 31 = true) s ∧
    SetsRegT (.rotr n) n ((s.reg n).rotateRight 1) ((s.reg n).getLsbD 0 = true) s ∧
    SetsRegT (.rotcl n) n ((s.reg n <<< 1) + boolWord s.t) ((s.reg n).getLsbD 31 = true) s ∧
    SetsRegT (.rotcr n) n ((s.reg n >>> 1) + (if s.t then 0x80000000 else 0)) ((s.reg n).getLsbD 0 = true) s ∧
    SetsRegT (.shal n) n (s.reg n + s.reg n) ((s.reg n).getLsbD 31 = true) s ∧
    SetsRegT (.shll n) n (s.reg n + s.reg n) ((s.reg n).getLsbD 31 = true) s ∧
    SetsRegT (.shar n) n (BitVec.ofInt 32 ((s.reg n).toInt / 2)) ((s.reg n).getLsbD 0 = true) s ∧
    SetsRegT (.shlr n) n (BitVec.ofNat 32 ((s.reg n).toNat / 2)) ((s.reg n).getLsbD 0 = true) s ∧
    SetsReg (.shll2 n) n (BitVec.ofNat 32 ((s.reg n).toNat * 2 ^ 2)) s ∧
    SetsReg (.shll8 n) n (BitVec.ofNat 32 ((s.reg n).toNat * 2 ^ 8)) s ∧
    SetsReg (.shll16 n) n (BitVec.ofNat 32 ((s.reg n).toNat * 2 ^ 16)) s ∧
    SetsReg (.shlr2 n) n (BitVec.ofNat 32 ((s.reg n).toNat / 2 ^ 2)) s ∧
    SetsReg (.shlr8 n) n (BitVec.ofNat 32 ((s.reg n).toNat / 2 ^ 8)) s ∧
    SetsReg (.shlr16 n) n (BitVec.ofNat 32 ((s.reg n).toNat / 2 ^ 16)) s

/-! ### Branches -/

/-- R295, R297, R303 to R307, R26: the branches outside a slot. `BT` and `BF` take effect at once; each delayed branch latches
its target, and the calls leave the address after the slot in `PR`. Every target wraps modulo 2^32. -/
def Obligations.BranchesLatchTheirTarget : Prop :=
  ∀ (s : State) (m : Reg) (d8 : Byte) (d12 : BitVec 12), s.delaySlot = none →
    Becomes (.bt d8) s
      { s with pc := if s.t then BitVec.ofInt 32 (s.pc.toNat + 4 + 2 * d8.toInt) else s.pc + 2 } ∧
    Becomes (.bf d8) s
      { s with pc := if s.t then s.pc + 2 else BitVec.ofInt 32 (s.pc.toNat + 4 + 2 * d8.toInt) } ∧
    Delays (.bts d8) (if s.t then BitVec.ofInt 32 (s.pc.toNat + 4 + 2 * d8.toInt) else s.pc + 4) s.pr s ∧
    Delays (.bfs d8) (if s.t then s.pc + 4 else BitVec.ofInt 32 (s.pc.toNat + 4 + 2 * d8.toInt)) s.pr s ∧
    Delays (.bra d12) (BitVec.ofInt 32 (s.pc.toNat + 4 + 2 * d12.toInt)) s.pr s ∧
    Delays (.bsr d12) (BitVec.ofInt 32 (s.pc.toNat + 4 + 2 * d12.toInt)) (s.pc + 4) s ∧
    Delays (.braf m) (s.pc + 4 + s.reg m) s.pr s ∧
    Delays (.bsrf m) (s.pc + 4 + s.reg m) (s.pc + 4) s ∧
    Delays (.jmp m) (s.reg m) s.pr s ∧
    Delays (.jsr m) (s.reg m) (s.pc + 4) s ∧
    Delays .rts s.pr s.pr s

/-! ### System control -/

/-- R321 to R325, R329 to R331, R335 to R339, R343, R344, R346: the moves between a general register and a control or system
register, and the flag and accumulator settings. `SR` takes the value masked by 0x3F3. -/
def Obligations.ControlRegisterMoves : Prop :=
  ∀ (s : State) (m n : Reg),
    Becomes (.ldcSr m) s { s with sr := s.reg m &&& 0x3F3, pc := s.pc + 2 } ∧
    Becomes (.ldcGbr m) s { s with gbr := s.reg m, pc := s.pc + 2 } ∧
    Becomes (.ldcVbr m) s { s with vbr := s.reg m, pc := s.pc + 2 } ∧
    Becomes (.ldsMach m) s { s with mach := s.reg m, pc := s.pc + 2 } ∧
    Becomes (.ldsMacl m) s { s with macl := s.reg m, pc := s.pc + 2 } ∧
    Becomes (.ldsPr m) s { s with pr := s.reg m, pc := s.pc + 2 } ∧
    Becomes .clrmac s { s with mach := 0, macl := 0, pc := s.pc + 2 } ∧
    Becomes .nop s { s with pc := s.pc + 2 } ∧
    SetsT .clrt False s ∧
    SetsT .sett True s ∧
    SetsReg (.stcSr n) n s.sr s ∧ SetsReg (.stcGbr n) n s.gbr s ∧ SetsReg (.stcVbr n) n s.vbr s ∧
    SetsReg (.stsMach n) n s.mach s ∧ SetsReg (.stsMacl n) n s.macl s ∧ SetsReg (.stsPr n) n s.pr s

/-- R326 to R328, R332 to R334: the pops into a control or system register. -/
def Obligations.ControlRegisterPops : Prop :=
  ∀ (s : State) (m : Reg),
    PopsInto (.ldcLSr m) m (fun t v => { t with sr := v &&& 0x3F3 }) s ∧
    PopsInto (.ldcLGbr m) m (fun t v => { t with gbr := v }) s ∧
    PopsInto (.ldcLVbr m) m (fun t v => { t with vbr := v }) s ∧
    PopsInto (.ldsLMach m) m (fun t v => { t with mach := v }) s ∧
    PopsInto (.ldsLMacl m) m (fun t v => { t with macl := v }) s ∧
    PopsInto (.ldsLPr m) m (fun t v => { t with pr := v }) s

/-- R345: `RTE` outside a slot pops the saved `PC`, then the saved `SR`, masked, and latches the saved `PC` as the target of a
delayed branch. Other agents' moves may fall between the two pops (`interpose`, R94). -/
def Obligations.ReturnFromExceptionPopsPcThenSr : Prop :=
  ∀ (s s1 s2 s3 : State) (target v : Word), s.delaySlot = none →
    memRead .core .long (s.reg 15) s = .ok (target, s1) →
    interpose (s1.setReg 15 (s.reg 15 + 4)) = .next s2 →
    memRead .core .long (s.reg 15 + 4) s2 = .ok (v, s3) →
    ∃ t, exec .rte s = .next t ∧ SameBytes s2 t ∧
      t = { s2 with
        regs := s.regs.set 15 (s.reg 15 + 8), sr := v &&& 0x3F3, delaySlot := some target, pc := s.pc + 2,
        draws := s3.draws }

/-- R350, R410: `SLEEP` stops the fetching and nothing else, unless the standby bit is set; the sleeping core's step changes
nothing while no level exceeds `IMASK`, and accepts an interrupt as soon as one does. -/
def Obligations.SleepLastsUntilAnInterrupt : Prop :=
  (∀ s : State, s.sbycr.getLsbD 7 = false → Becomes .sleep s { s with pc := s.pc + 2, run := .sleeping }) ∧
  (∀ s : State, s.sbycr.getLsbD 7 = true → exec .sleep s = .refused .standbyMode) ∧
  (∀ s : State, s.schedule = [] → s.run = .sleeping →
    (s.intc.currentLevel ≤ s.imask.toNat → step s = .next s) ∧
    (s.imask.toNat < s.intc.currentLevel → ∀ t, step s = .next t → t.run = .running))

/-! ### Exceptions and interrupts -/

/-- R351, R406, R404: `TRAPA` outside a slot enters its vector with the next address saved and `SR` unchanged; R352, R405: an
illegal opcode enters vector 4 with its own address saved and `SR` unchanged. -/
def Obligations.TrapAndIllegalOpcodeEnterTheirHandler : Prop :=
  ∀ (s : State), s.delaySlot = none →
    (∀ imm : Byte, EntersHandler (exec (.trapa imm) s) imm.toNat (s.pc + 2) none s) ∧
    (∀ op : Half, decodeWord op = none → EntersHandler (execOpcode op s) 4 s.pc none s)

/-- R404: the frame an entry leaves on a stack in SDRAM, when no other agent moves inside the entry: the saved `PC` at the
new `R15`, `SR` as it was 4 above it; the core reads its own frame back under either cache model. -/
def Obligations.EntryLeavesPcBelowSrOnTheStack : Prop :=
  ∀ (s t : State) (vector : Nat) (savedPc : Word) (newImask : Option (BitVec 4)),
    AtDefaultMap s → CanonicalMemory s → s.inside = [] → (s.reg 15).toNat % 4 = 0 → 0x6000008 ≤ (s.reg 15).toNat →
    (s.reg 15).toNat ≤ 0x6040000 →
    enter vector savedPc newImask s = .next t →
    t.reg 15 = s.reg 15 - 8 ∧
    (∃ u, memRead .core .long (t.reg 15) t = .ok (savedPc, u)) ∧
    (∃ u, memRead .core .long (t.reg 15 + 4) t = .ok (s.sr, u))

/-- R64, R88, R409: where an access of a multiply-accumulate, of a byte operation or of `RTE` faults, or a move that falls between
its accesses stops, the instruction stops with that, whether it is the first access or the second. -/
def Obligations.FaultingAccessesStopTheInstruction : Prop :=
  ∀ (s s1 s2 : State) (m n : Reg) (imm : Byte) (v : Word) (f : Fault),
    (memRead .core .long (s.reg n) s = .error f → exec (.macL m n) s = .fault f) ∧
    (memRead .core .word (s.reg n) s = .error f → exec (.macW m n) s = .fault f) ∧
    (memRead .core .long (s.reg n) s = .ok (v, s1) →
      StopsWith (interpose (s1.setReg n (s.reg n + 4))) (exec (.macL m n) s) ∧
      (interpose (s1.setReg n (s.reg n + 4)) = .next s2 →
        memRead .core .long ((s.setReg n (s.reg n + 4)).reg m) s2 = .error f → exec (.macL m n) s = .fault f)) ∧
    (memRead .core .word (s.reg n) s = .ok (v, s1) →
      StopsWith (interpose (s1.setReg n (s.reg n + 2))) (exec (.macW m n) s) ∧
      (interpose (s1.setReg n (s.reg n + 2)) = .next s2 →
        memRead .core .word ((s.setReg n (s.reg n + 2)).reg m) s2 = .error f → exec (.macW m n) s = .fault f)) ∧
    (memRead .core .byte (s.gbr + s.reg 0) s = .error f →
      exec (.andB imm) s = .fault f ∧ exec (.orB imm) s = .fault f ∧ exec (.xorB imm) s = .fault f ∧
        exec (.tstB imm) s = .fault f) ∧
    (memRead .core .byte (s.gbr + s.reg 0) s = .ok (v, s1) →
      StopsWith (interpose s1) (exec (.andB imm) s) ∧ StopsWith (interpose s1) (exec (.orB imm) s) ∧
      StopsWith (interpose s1) (exec (.xorB imm) s) ∧
      (interpose s1 = .next s2 →
        (memWrite .core .byte (s.gbr + s.reg 0) (v &&& imm.setWidth 32) s2 = .error f → exec (.andB imm) s = .fault f) ∧
        (memWrite .core .byte (s.gbr + s.reg 0) (v ||| imm.setWidth 32) s2 = .error f → exec (.orB imm) s = .fault f) ∧
        (memWrite .core .byte (s.gbr + s.reg 0) (v ^^^ imm.setWidth 32) s2 = .error f →
          exec (.xorB imm) s = .fault f))) ∧
    (memReadUncached .byte (s.reg n) s = .error f → exec (.tasB n) s = .fault f) ∧
    (memReadUncached .byte (s.reg n) s = .ok (v, s1) → memWrite .core .byte (s.reg n) (v ||| 0x80) s1 = .error f →
      exec (.tasB n) s = .fault f) ∧
    (s.delaySlot = none → memRead .core .long (s.reg 15) s = .error f → exec .rte s = .fault f) ∧
    (s.delaySlot = none → memRead .core .long (s.reg 15) s = .ok (v, s1) →
      StopsWith (interpose (s1.setReg 15 (s.reg 15 + 4))) (exec .rte s) ∧
      (interpose (s1.setReg 15 (s.reg 15 + 4)) = .next s2 →
        memRead .core .long (s.reg 15 + 4) s2 = .error f → exec .rte s = .fault f))

/-- R410: nothing is accepted while no triggered level exceeds `IMASK`; otherwise a triggered source at the highest level is
accepted, with `pc` saved, `IMASK` at its level (15 for level 16, R411), and the core runs; other agents may move between the
acceptance and the first push (`interpose`, R94; log 20). -/
def Obligations.SampleAcceptsTheHighestLevelAboveMask : Prop :=
  ∀ s : State,
    (s.intc.currentLevel ≤ s.imask.toNat → sample s = .next s) ∧
    (s.imask.toNat < s.intc.currentLevel →
      ∃ src s', src ∈ s.intc.triggeredSources ∧ s.intc.level src = s.intc.currentLevel ∧
        s' = { s with run := .running, draws := s'.draws, intc := { s.intc with pending := s'.intc.pending } } ∧
        s' = { s.acceptSource src with run := .running, draws := s'.draws } ∧
        StopsWith (interpose s') (sample s) ∧
        ∀ s'', interpose s' = .next s'' →
          EntersHandler (sample s) (s.vectorFor src) s.pc (some (BitVec.ofNat 4 (min s.intc.currentLevel 15))) s'')

/-- R445: the current level is the largest triggered level, and 0 when nothing is triggered; it does not look at `IMASK`. -/
def Obligations.CurrentLevelIsTheLargestTriggered : Prop :=
  ∀ i : Intc,
    (∀ src : Source, i.triggered src = true → i.level src ≤ i.currentLevel) ∧
    ((∀ src : Source, i.triggered src = false) → i.currentLevel = 0) ∧
    ((∃ src : Source, i.triggered src = true) →
      ∃ src : Source, i.triggered src = true ∧ i.level src = i.currentLevel ∧ 1 ≤ i.currentLevel ∧ i.currentLevel ≤ 16)

/-- R410, R440, R444: the level-16 source is accepted whatever `IMASK` and the mask register hold. -/
def Obligations.NmiIsNeverMasked : Prop :=
  ∀ s : State, s.intc.pending.nmi = true →
    s.intc.currentLevel = 16 ∧ s.imask.toNat < s.intc.currentLevel ∧
    sample s = acceptInterrupt 16 (.board .nmi) s

/-- R452: PWM and VINT pending and unmasked, and no other source triggered: level 12 and vector 70; after a write to the VINT
clear register, level 6 and vector 67. -/
def Obligations.VintBeforePwmUntilCleared : Prop :=
  ∀ (s t : State) (v : Word), AtDefaultMap s →
    s.intc.pending = { Pending.none with vint := true, pwm := true } → s.intc.mask = 0b1001#4 →
    memWrite .core .word 0x00004016 v s = .ok t →
    s.intc.currentLevel = 12 ∧ s.intc.sourcesAt 12 = [.board .vint] ∧ s.vectorFor (.board .vint) = 70 ∧
    t.intc.currentLevel = 6 ∧ t.intc.sourcesAt 6 = [.board .pwm] ∧ t.vectorFor (.board .pwm) = 67

/-- R448: acceptance clears the pending bit of an on-chip source and of nothing else, leaves a board source pending, and
leaves the devices' own flags alone. -/
def Obligations.AcceptanceClearsOnChipSourcesOnly : Prop :=
  ∀ (s : State) (src : Source),
    (∀ b, src = .board b → s.acceptSource src = s) ∧
    ((∀ b, src ≠ .board b) → (s.acceptSource src).intc.pending.get src = false) ∧
    (∀ other : Source, other ≠ src → (s.acceptSource src).intc.pending.get other = s.intc.pending.get other) ∧
    s.acceptSource src = { s with intc := { s.intc with pending := (s.acceptSource src).intc.pending } }

/-- R441, R444, R447, R451: the levels of the board sources, and the vector of each source: `64 + level / 2` for a board source
(the NMI's is the parameter `NMI_VECTOR`), the field of its vector register for an on-chip source. An on-chip source's level is
its field of `IPRA`. NMI and VRES are always valid, the four maskable sources exactly while their mask bit is set, an on-chip
source exactly while its level is above 0. A source that is not valid is not triggered, whatever its pending bit; a pending
source that is valid is. A write of `IPRA` or of the mask register changes no pending bit. -/
def Obligations.VectorsAndValidity : Prop :=
  ∀ s : State,
    (s.intc.level (.board .nmi) = 16 ∧ s.intc.level (.board .vres) = 14 ∧ s.intc.level (.board .vint) = 12 ∧
      s.intc.level (.board .hint) = 10 ∧ s.intc.level (.board .cmd) = 8 ∧ s.intc.level (.board .pwm) = 6) ∧
    s.vectorFor (.board .nmi) = s.params.nmiVector.toNat ∧ s.vectorFor (.board .vres) = 71 ∧
    s.vectorFor (.board .vint) = 70 ∧ s.vectorFor (.board .hint) = 69 ∧ s.vectorFor (.board .cmd) = 68 ∧
    s.vectorFor (.board .pwm) = 67 ∧
    s.vectorFor (.dmac .ch0) = s.dma0.vcrdma.toNat % 256 ∧ s.vectorFor (.dmac .ch1) = s.dma1.vcrdma.toNat % 256 ∧
    s.vectorFor .wdt = s.intc.vcrwdt.toNat / 256 % 128 ∧ s.vectorFor .divu = s.divu.vcrdiv.toNat % 128 ∧
    (∀ b, s.intc.valid (.board b) = true ↔
      (b = .nmi ∨ b = .vres ∨ (b = .vint ∧ s.intc.mask.getLsbD 3 = true) ∨ (b = .hint ∧ s.intc.mask.getLsbD 2 = true) ∨
        (b = .cmd ∧ s.intc.mask.getLsbD 1 = true) ∨ (b = .pwm ∧ s.intc.mask.getLsbD 0 = true))) ∧
    (s.intc.valid .divu = true ↔ 0 < s.intc.ipra.toNat / 2 ^ 12 % 16) ∧
    (∀ c, s.intc.valid (.dmac c) = true ↔ 0 < s.intc.ipra.toNat / 2 ^ 8 % 16) ∧
    (s.intc.valid .wdt = true ↔ 0 < s.intc.ipra.toNat / 2 ^ 4 % 16) ∧
    (∀ src : Source, s.intc.triggered src = true ↔ s.intc.valid src = true ∧ s.intc.pending.get src = true) ∧
    (AtDefaultMap s → ∀ v t, memWrite .core .word 0xFFFFFEE2 v s = .ok t →
      t.intc.level .divu = v.toNat / 2 ^ 12 % 16 ∧ t.intc.level (.dmac .ch0) = v.toNat / 2 ^ 8 % 16 ∧
      t.intc.level (.dmac .ch1) = v.toNat / 2 ^ 8 % 16 ∧ t.intc.level .wdt = v.toNat / 2 ^ 4 % 16 ∧
      t.intc.pending = s.intc.pending) ∧
    (AtDefaultMap s → ∀ v t, memWrite .core .word 0x00004000 v s = .ok t →
      t.intc.mask = v.setWidth 4 ∧ t.intc.pending = s.intc.pending)

/-! ### Memory -/

/-- R64: a misaligned access faults, for every agent, read or written, and has no effect. -/
def Obligations.MisalignedAccessesFault : Prop :=
  ∀ (ag : Agent) (sz : Size) (a v : Word) (s : State), a.toNat % sz.bytes ≠ 0 →
    memRead ag sz a s = .error (.addressError a sz ag) ∧ memWrite ag sz a v s = .error (.addressError a sz ag)

/-- R83, R73: on the default address map the rows of the region table are disjoint; the direct and the cache-through alias resolve
alike, so that (with no cache state, R98) a successful read or write through one is the same as through the other; the boot ROM
row depends on the node, 2048 bytes on the master and 1024 on the slave, and on any map no other row does; the DMA channels see
the same table as the core. -/
def Obligations.RegionTableResolvesUniquely : Prop :=
  (∀ (p : Params) (x : Nat), p.layout = Config.defaultLayout → ∀ r1 ∈ regionTable p, ∀ r2 ∈ regionTable p,
    r1.holds x = true → r2.holds x = true → r1 = r2) ∧
  (∀ (p : Params) (a : Word) (sz : Size) (kind : AccessKind), p.layout = Config.defaultLayout → aliasBits a = 0 →
    decodeRegion p (a ||| 0x20000000) sz kind = decodeRegion p a sz kind) ∧
  (∀ (p q : Params) (row : RegionRow), p.layout = q.layout → row.region ≠ .bootRom →
    (row ∈ regionTable p ↔ row ∈ regionTable q)) ∧
  (∀ (p q : Params), p.layout = Config.defaultLayout → q.layout = Config.defaultLayout →
    p.coreId = .master → q.coreId = .slave →
    ∃ rm ∈ regionTable p, ∃ rs ∈ regionTable q, rm.region = .bootRom ∧ rs.region = .bootRom ∧
      rm.base = 0 ∧ rs.base = 0 ∧ rm.size = 2048 ∧ rs.size = 1024 ∧ rm ∉ regionTable q ∧ rs ∉ regionTable p) ∧
  (∀ (p : Params) (c : Channel) (a : Word) (sz : Size) (kind : AccessKind), inOnChipBlock p a = false →
    decodeAddress p (.dmac c) a sz kind = decodeAddress p .core a sz kind) ∧
  (∀ (ag : Agent) (sz : Size) (a v : Word) (s t : State), AtDefaultMap s → s.params.cacheModel = .transparent →
    aliasBits a = 0 →
    (memRead ag sz a s = .ok (v, t) ↔ memRead ag sz (a ||| 0x20000000) s = .ok (v, t)) ∧
    (memWrite ag sz a v s = .ok t ↔ memWrite ag sz (a ||| 0x20000000) v s = .ok t))

/-- R70, R75, R77, R82, R86, R88: on the default address map, outside the on-chip block, every aligned access to no region, of a
size its region refuses, through the aliases 0b011 to 0b111, or that writes a ROM through either alias, and every read of the
purge alias, is refused: a fault, or under `UNMAPPED = clamp` all ones read and nothing written. A write to the purge alias is
discarded (under `CACHE_MODEL = stale_draw` it only forgets earlier values, R98; log 27). -/
def Obligations.RefusedAndDiscardedWrites : Prop :=
  ∀ (ag : Agent) (sz : Size) (a v : Word) (s : State), AtDefaultMap s → a.toNat % sz.bytes = 0 → a.toNat < 0xFFFFFE00 →
    (a.toNat / 2 ^ 29 = 2 → ∃ t, memWrite ag sz a v s = .ok t ∧ t = { s with stale := t.stale } ∧
      (s.params.cacheModel = .transparent → t = s)) ∧
    (Refused s.params.coreId .write sz a →
      (s.params.unmapped = .fault → memWrite ag sz a v s = .error (.busPolicy a sz .write ag)) ∧
      (s.params.unmapped = .clamp → memWrite ag sz a v s = .ok s)) ∧
    (Refused s.params.coreId .read sz a →
      (s.params.unmapped = .fault → memRead ag sz a s = .error (.busPolicy a sz .read ag)) ∧
      (s.params.unmapped = .clamp → memRead ag sz a s = .ok (BitVec.ofNat 32 (2 ^ (8 * sz.bytes) - 1), s)))

/-- R76, R66: on the default address map an aligned access to SDRAM, through either alias, by any agent, is answered. A read there
changes nothing but the count of draws, and with no cache state nothing at all; a write changes bytes, and the list of earlier
values under `CACHE_MODEL = stale_draw` only (R98; log 27). -/
def Obligations.SdramAccessesAreAnswered : Prop :=
  ∀ (ag : Agent) (sz : Size) (a : Word) (s : State), AtDefaultMap s → a.toNat % sz.bytes = 0 →
    a.toNat < 0x40000000 → 0x6000000 ≤ a.toNat % 2 ^ 28 → a.toNat % 2 ^ 28 < 0x6040000 →
    (∃ v t, memRead ag sz a s = .ok (v, t) ∧ t = { s with draws := t.draws } ∧
      (s.params.cacheModel = .transparent → t = s)) ∧
    ∀ v, ∃ t, memWrite ag sz a v s = .ok t ∧ t = { s with mem := t.mem, stale := t.stale } ∧
      (s.params.cacheModel = .transparent → t = { s with mem := t.mem })

/-- R60, R62, R94, R98: with no cache state, after a write to SDRAM every byte of the access reads as the byte of the value at its
place, most significant first, and every other byte of SDRAM reads as before; a word or longword read is the big-endian join of
its bytes. Under `CACHE_MODEL = stale_draw`, after another agent's write of a byte a read around the cache finds the new value,
a read through the cached alias the new value or one the byte had since the core's last purge of it, and after a write to its
purge alias the new value again; the core's own write is read back at once (R99). That each
byte makes its own choice, and what a purge covers, is the model's form of R98 (log 27). -/
def Obligations.SdramIsBigEndianBytes : Prop :=
  (∀ (ag : Agent) (sz : Size) (a b v : Word) (s t : State), AtDefaultMap s → s.params.cacheModel = .transparent →
    CanonicalMemory s → 0x6000000 ≤ a.toNat → a.toNat < 0x6040000 → 0x6000000 ≤ b.toNat → b.toNat < 0x6040000 →
    memWrite ag sz a v s = .ok t →
    memRead .core .byte b t =
      (if a.toNat ≤ b.toNat ∧ b.toNat < a.toNat + sz.bytes then
        .ok ((v >>> (8 * (a.toNat + sz.bytes - 1 - b.toNat))) &&& 0xFF, t)
      else (memRead .core .byte b s).map (fun x => (x.1, t)))) ∧
  (∀ (s : State) (a b0 b1 b2 b3 : Word), AtDefaultMap s → s.params.cacheModel = .transparent →
    0x6000000 ≤ a.toNat → a.toNat + 4 ≤ 0x6040000 → a.toNat % 4 = 0 →
    memRead .core .byte a s = .ok (b0, s) → memRead .core .byte (a + 1) s = .ok (b1, s) →
    memRead .core .byte (a + 2) s = .ok (b2, s) → memRead .core .byte (a + 3) s = .ok (b3, s) →
    memRead .core .word a s = .ok ((b0 <<< 8) ||| b1, s) ∧
    memRead .core .word (a + 2) s = .ok ((b2 <<< 8) ||| b3, s) ∧
    memRead .core .long a s = .ok ((b0 <<< 24) ||| (b1 <<< 16) ||| (b2 <<< 8) ||| b3, s)) ∧
  (∀ (c : Channel) (a v x : Word) (s t : State) (k : Nat), AtDefaultMap s → s.params.cacheModel = .staleDraw →
    CanonicalMemory s → 0x6000000 ≤ a.toNat → a.toNat < 0x6040000 → k = Config.sdramStore + (a.toNat - 0x6000000) →
    (memWrite (.dmac c) .byte a v s = .ok t →
      (∃ u, memRead .core .byte (a ||| 0x20000000) t = .ok (v &&& 0xFF, u)) ∧
      (∃ w u, memRead .core .byte a t = .ok (w, u) ∧
        (w = v &&& 0xFF ∨ ∃ old ∈ s.heldByte k :: s.history k, w = (t.valueOf k 0 old).setWidth 32)) ∧
      ∃ t' u, memWrite .core .byte (a ||| 0x40000000) x t = .ok t' ∧
        memRead .core .byte a t' = .ok (v &&& 0xFF, u)) ∧
    (memWrite .core .byte a v s = .ok t → ∃ u, memRead .core .byte a t = .ok (v &&& 0xFF, u)))

/-- R69, R72: a read changes nothing but the count of draws; with no cache state, or by a DMA channel, a read of the ROMs or of
SDRAM changes nothing and, repeated, answers the same. -/
def Obligations.ReadsHaveNoSideEffectOnTheStores : Prop :=
  ∀ (ag : Agent) (sz : Size) (a v : Word) (s t : State), memRead ag sz a s = .ok (v, t) →
    t = { s with draws := t.draws } ∧
    (∀ r off, decodeAddress s.params ag a sz .read = .region r off → r = .bootRom ∨ r = .cart ∨ r = .sdram →
      s.params.cacheModel = .transparent ∨ ag ≠ .core → t = s ∧ memRead ag sz a t = .ok (v, t))

/-- R80, R81, R84: the frame buffer, read through its own window or the over region, holds the last value written; a bank
change forgets it (what it reads then is a draw: log 16); a write to the over region stores its bytes that are not 0 and
skips the others. -/
def Obligations.FrameBufferAndOverRegion : Prop :=
  (∀ (s t : State) (sz : Size) (a v : Word), AtDefaultMap s → CanonicalMemory s → a.toNat % sz.bytes = 0 →
    0x4000000 ≤ a.toNat → a.toNat < 0x4020000 → memWrite .core sz a v s = .ok t →
    (∃ u, memRead .core sz a t = .ok (truncate sz v, u)) ∧
    (∃ u, memRead .core sz (a + 0x20000) t = .ok (truncate sz v, u)) ∧
    t.swapBank.heldByte (Config.frameBufferStore + (a.toNat - 0x4000000)) = none ∧ t.swapBank.fbBank = !s.fbBank) ∧
  (∀ (ag : Agent) (sz : Size) (a v : Word) (s t : State) (off k : Nat) (b : Byte), CanonicalMemory s →
    decodeAddress s.params ag a sz .write = .region .over off → memWrite ag sz a v s = .ok t →
    k < sz.bytes → (beBytes sz v)[k]? = some b →
    t.heldByte (Config.frameBufferStore + off + k) = if b = 0 then s.heldByte (Config.frameBufferStore + off + k) else some b)

/-! ### The on-chip registers -/

/-- R443, R446: on the default address map the low four bits of the interrupt mask register are the node's own and are written and
read at 0x4000 (word) or 0x4001 (byte), read through the cache-through alias under either cache model; a core's write to a
clear register lowers its source and nothing else, whatever the value; that a DMA channel's write there lowers nothing is the
model's choice (log 14). -/
def Obligations.InterruptMaskAndClearRegisters : Prop :=
  ∀ (s : State) (v : Word), AtDefaultMap s →
    (∃ t, memWrite .core .word 0x4000 v s = .ok t ∧
      t = { s with intc := { s.intc with mask := v.setWidth 4 }, stale := t.stale } ∧
      (s.params.cacheModel = .transparent → t.stale = s.stale)) ∧
    (∃ t, memWrite .core .byte 0x4001 v s = .ok t ∧
      t = { s with intc := { s.intc with mask := v.setWidth 4 }, stale := t.stale } ∧
      (s.params.cacheModel = .transparent → t.stale = s.stale)) ∧
    (∃ w t, memRead .core .word 0x20004000 s = .ok (w, t) ∧ w.setWidth 4 = s.intc.mask) ∧
    (∃ w t, memRead .core .byte 0x20004001 s = .ok (w, t) ∧ w.setWidth 4 = s.intc.mask) ∧
    (s.params.cacheModel = .transparent →
      (∃ w t, memRead .core .word 0x4000 s = .ok (w, t) ∧ w.setWidth 4 = s.intc.mask) ∧
      (∃ w t, memRead .core .byte 0x4001 s = .ok (w, t) ∧ w.setWidth 4 = s.intc.mask)) ∧
    (∀ row ∈ ([(0x4014, .vres), (0x4016, .vint), (0x4018, .hint), (0x401A, .cmd), (0x401C, .pwm)] :
        List (Word × BoardSource)),
      memWrite .core .word row.1 v s = .ok (s.setPending (.board row.2) false) ∧
      memWrite .core .byte row.1 v s = .ok (s.setPending (.board row.2) false) ∧
      ∀ c, memWrite (.dmac c) .word row.1 v s = .ok s)

/-- R450, R458, R460, R477: the flags the hardware sets (`TE`, `NMIF`, `AE`, `OVF`) can only be cleared by a write; bit 15 of
`ICR` is a draw and cannot be written. -/
def Obligations.HardwareFlagsAreClearedNeverSet : Prop :=
  ∀ (s : State) (v : Word), AtDefaultMap s →
    (∃ t, memWrite .core .long 0xFFFFFF8C v s = .ok t ∧
      t = { s with dma0 := { s.dma0 with chcr := (v &&& 0xFFFD) ||| (v &&& s.dma0.chcr &&& 2) } }) ∧
    (∃ t, memWrite .core .long 0xFFFFFF9C v s = .ok t ∧
      t = { s with dma1 := { s.dma1 with chcr := (v &&& 0xFFFD) ||| (v &&& s.dma1.chcr &&& 2) } }) ∧
    (∃ t, memWrite .core .long 0xFFFFFFB0 v s = .ok t ∧
      t = { s with dmaor := (v &&& 0x9) ||| (v &&& s.dmaor &&& 0x6) }) ∧
    (∃ t, memWrite .core .long 0xFFFFFF08 v s = .ok t ∧
      t = { s with divu := { s.divu with dvcr := (v &&& 0x2) ||| (v &&& s.divu.dvcr &&& 0x1) } }) ∧
    (∃ t w u, memWrite .core .word 0xFFFFFEE0 v s = .ok t ∧ memRead .core .word 0xFFFFFEE0 t = .ok (w, u) ∧
      w &&& 0x7FFF = v &&& 0x0101)

/-- R439, R450, R457 to R460, R470, R472, R477: each plain register reads back what was written, with its reserved bits 0; a
byte of the block that no listed register claims and no absent module drives reads back the last byte written. -/
def Obligations.OnChipRegistersReadBackTheirFields : Prop :=
  ∀ (s : State) (v : Word), AtDefaultMap s →
    (∀ row ∈ ([(0xFFFFFE60, 0xFF00), (0xFFFFFE62, 0x7F7F), (0xFFFFFE64, 0x7F7F), (0xFFFFFE66, 0x7F7F), (0xFFFFFE68, 0x7F7F),
        (0xFFFFFEE2, 0xFFF0), (0xFFFFFEE4, 0x7F7F)] : List (Word × Word)),
      ∃ t, memWrite .core .word row.1 v s = .ok t ∧ memRead .core .word row.1 t = .ok (v &&& row.2, t)) ∧
    (∀ row ∈ ([(0xFFFFFE71, 0x03), (0xFFFFFE72, 0x03), (0xFFFFFE91, 0xFF), (0xFFFFFE92, 0xFF)] : List (Word × Word)),
      ∃ t, memWrite .core .byte row.1 v s = .ok t ∧ memRead .core .byte row.1 t = .ok (v &&& row.2, t)) ∧
    (∀ row ∈ ([(0xFFFFFF00, 0xFFFFFFFF), (0xFFFFFF0C, 0xFFFF), (0xFFFFFF10, 0xFFFFFFFF), (0xFFFFFF80, 0xFFFFFFFF),
        (0xFFFFFF84, 0xFFFFFFFF), (0xFFFFFF88, tcrMask s.params), (0xFFFFFF90, 0xFFFFFFFF), (0xFFFFFF94, 0xFFFFFFFF),
        (0xFFFFFF98, tcrMask s.params), (0xFFFFFFA0, 0xFF), (0xFFFFFFA8, 0xFF)] : List (Word × Word)),
      ∃ t, memWrite .core .long row.1 v s = .ok t ∧ memRead .core .long row.1 t = .ok (v &&& row.2, t)) ∧
    (∀ a : Word, CanonicalMemory s → 0xFFFFFE00 ≤ a.toNat →
      touchesRegister (a.toNat - 0xFFFFFE00) .byte = false → isVolatile (a.toNat - 0xFFFFFE00) = false →
      ∃ t, memWrite .core .byte a v s = .ok t ∧ memRead .core .byte a t = .ok (v &&& 0xFF, t) ∧
        t = { s with mem := t.mem } ∧ ∀ b, b ≠ Config.onChipStore + (a.toNat - 0xFFFFFE00) → t.heldByte b = s.heldByte b)

/-- R439: with `UNMAPPED = fault`, on the default address map, an access that touches a listed register with another width or at
another address faults, but for writes of the WDT ports; a DMA channel reaches no register at all (R78). Under
`UNMAPPED = clamp` such a read is all ones and such a write nothing, as R6 and D3 say of an unsupported size (that this takes in
R439's accesses is the model's deduction, log 18). That the byte at 0xFFFFFE82 is no register and its read such an access is a
deduction too (log 17). -/
def Obligations.OnChipAccessesOfTheWrongShapeFault : Prop :=
  ∀ (sz : Size) (a v : Word) (s : State), AtDefaultMap s → a.toNat % sz.bytes = 0 → 0xFFFFFE00 ≤ a.toNat →
    (touchesRegister (a.toNat - 0xFFFFFE00) sz = true → registerAt (a.toNat - 0xFFFFFE00) sz = none →
      (s.params.unmapped = .fault →
        memRead .core sz a s = .error (.busPolicy a sz .size .core) ∧
        (touchesWdtPorts (a.toNat - 0xFFFFFE00) sz = false →
          memWrite .core sz a v s = .error (.busPolicy a sz .size .core))) ∧
      (s.params.unmapped = .clamp →
        memRead .core sz a s = .ok (BitVec.ofNat 32 (2 ^ (8 * sz.bytes) - 1), s) ∧
        (touchesWdtPorts (a.toNat - 0xFFFFFE00) sz = false → memWrite .core sz a v s = .ok s))) ∧
    (∀ c,
      (s.params.unmapped = .fault →
        memRead (.dmac c) sz a s = .error (.busPolicy a sz .read (.dmac c)) ∧
        memWrite (.dmac c) sz a v s = .error (.busPolicy a sz .write (.dmac c))) ∧
      (s.params.unmapped = .clamp →
        memRead (.dmac c) sz a s = .ok (BitVec.ofNat 32 (2 ^ (8 * sz.bytes) - 1), s) ∧
        memWrite (.dmac c) sz a v s = .ok s))

/-- R473, R474, R476: the division unit. Where the quotient exists and fits, quotient and remainder satisfy the division law
and the overflow flag is unchanged; elsewhere the flag is set and the quotient saturates by sign. The remainder register
after an overflow is a draw: nothing is said of it. -/
def Obligations.DivisionUnitDividesOrSaturates : Prop :=
  ∀ (s : State) (v : Word) (a b : Int) (wide : Bool), AtDefaultMap s →
    b = s.divu.dvsr.toInt → a = (if wide then (s.divu.dvdnth ++ v : BitVec 64).toInt else v.toInt) →
    ∃ t, memWrite .core .long (if wide then 0xFFFFFF14 else 0xFFFFFF04) v s = .ok t ∧
    t = { s with divu := t.divu, draws := t.draws } ∧ t.divu.dvdnt = t.divu.dvdntl ∧
    t.divu.dvsr = s.divu.dvsr ∧ t.divu.vcrdiv = s.divu.vcrdiv ∧
    (∀ q r : Int, b ≠ 0 → a = q * b + r → r.natAbs < b.natAbs → (r = 0 ∨ (r < 0 ↔ a < 0)) →
      -2 ^ 31 ≤ q → q ≤ 2 ^ 31 - 1 →
      t.divu.dvdntl.toInt = q ∧ t.divu.dvdnth.toInt = r ∧ t.divu.dvcr = s.divu.dvcr) ∧
    (b = 0 ∨ (∃ q r : Int, a = q * b + r ∧ r.natAbs < b.natAbs ∧ (r = 0 ∨ (r < 0 ↔ a < 0)) ∧
        (q < -2 ^ 31 ∨ 2 ^ 31 - 1 < q)) →
      t.divu.dvcr = s.divu.dvcr ||| 1 ∧
      t.divu.dvdntl = if (if b = 0 then a < 0 else (a < 0) ≠ (b < 0)) then 0x80000000 else 0x7FFFFFFF)

/-- R481, R482, R483, R487, R488: the WDT's write protocol on the default address map. At 0xFFFFFE80 a word with 0xA5 above writes
`WTCSR`, where `OVF` can only be cleared and bits 4:3 read 1, and stopping the count clears the counter; one with 0x5A above
writes `WTCNT`; every other write there has no effect. At 0xFFFFFE82 a word with 0xA5 above and bit 7 clear clears `WOVF`, one
with 0x5A above stores bits 6:5 into `RSTE` and `RSTS`, bits 4:0 read 1, every other word has no effect. The byte reads of
`WTCSR`, `WTCNT` and `RSTCSR` give the registers and have no side effect. -/
def Obligations.WatchdogWriteProtocol : Prop :=
  ∀ (s : State) (v : Word) (low : Byte), AtDefaultMap s → low = v.setWidth 8 →
    (v.extractLsb' 8 8 = 0xA5 → ∃ t, memWrite .core .word 0xFFFFFE80 v s = .ok t ∧
      t = { s with wdt := t.wdt } ∧ t.wdt.rstcsr = s.wdt.rstcsr ∧
      t.wdt.wtcsr = ((low &&& 0x7F) ||| 0x18 ||| (low &&& s.wdt.wtcsr &&& 0x80)) ∧
      (low.getLsbD 5 = true → t.wdt.wtcnt = s.wdt.wtcnt ∧ t.wdt.presc = s.wdt.presc) ∧
      (low.getLsbD 5 = false → t.wdt.wtcnt = 0 ∧ t.wdt.presc = 0)) ∧
    (v.extractLsb' 8 8 = 0x5A → memWrite .core .word 0xFFFFFE80 v s = .ok { s with wdt := { s.wdt with wtcnt := low } }) ∧
    (v.extractLsb' 8 8 ≠ 0xA5 → v.extractLsb' 8 8 ≠ 0x5A → memWrite .core .word 0xFFFFFE80 v s = .ok s) ∧
    memWrite .core .byte 0xFFFFFE80 v s = .ok s ∧ memWrite .core .byte 0xFFFFFE81 v s = .ok s ∧
    memWrite .core .long 0xFFFFFE80 v s = .ok s ∧
    (v.extractLsb' 8 8 = 0xA5 → low.getLsbD 7 = false → memWrite .core .word 0xFFFFFE82 v s =
      .ok { s with wdt := { s.wdt with rstcsr := s.wdt.rstcsr &&& 0x7F } }) ∧
    (v.extractLsb' 8 8 = 0x5A → memWrite .core .word 0xFFFFFE82 v s =
      .ok { s with wdt := { s.wdt with rstcsr := (s.wdt.rstcsr &&& 0x80) ||| (low &&& 0x60) ||| 0x1F } }) ∧
    ((v.extractLsb' 8 8 = 0xA5 ∧ low.getLsbD 7 = true) ∨ (v.extractLsb' 8 8 ≠ 0xA5 ∧ v.extractLsb' 8 8 ≠ 0x5A) →
      memWrite .core .word 0xFFFFFE82 v s = .ok s) ∧
    memRead .core .byte 0xFFFFFE80 s = .ok (s.wdt.wtcsr.setWidth 32, s) ∧
    memRead .core .byte 0xFFFFFE81 s = .ok (s.wdt.wtcnt.setWidth 32, s) ∧
    memRead .core .byte 0xFFFFFE83 s = .ok (s.wdt.rstcsr.setWidth 32, s)

/-- R483 to R487: `WdtStep`, for a positive number of cycles, is `wdtRun`. While the count does not overflow, `wdtRun` adds
the whole dividers of the accumulated cycles to `WTCNT` and keeps the rest in the prescaler; where it reaches 256 it is the
overflow, at `WTCNT` 0, followed by the run of the cycles left over; a stopped timer does not count. The divider is
`WDT_DIVIDER[CKS]`, by default 2, 64, 128, 256, 512, 1024, 4096, 8192. An overflow sets `OVF`; in watchdog mode `WOVF` too,
and with reset enabled the model refuses; the interrupt becomes pending in the mode `WDT_IRQ_MODE` names, and in no other. -/
def Obligations.WatchdogCountsAndOverflows : Prop :=
  (∀ (s : State) (cycles : ℕ+), s.wdtStep cycles = s.wdtRun cycles) ∧
  (∀ (s : State) (cycles : Nat),
    (s.wdt.wtcsr.getLsbD 5 = false → s.wdtRun cycles = .next s) ∧
    (s.wdt.wtcsr.getLsbD 5 = true → s.wdt.wtcnt.toNat + (s.wdt.presc + cycles) / s.wdtDivider < 256 →
      s.wdtRun cycles = .next
        { s with wdt := { s.wdt with
            wtcnt := s.wdt.wtcnt + BitVec.ofNat 8 ((s.wdt.presc + cycles) / s.wdtDivider)
            presc := (s.wdt.presc + cycles) % s.wdtDivider } }) ∧
    (s.wdt.wtcsr.getLsbD 5 = true → 256 ≤ s.wdt.wtcnt.toNat + (s.wdt.presc + cycles) / s.wdtDivider →
      s.wdtRun cycles =
        andThen ({ s with wdt := { s.wdt with wtcnt := 0, presc := 0 } } : State).wdtOverflow
          (fun t => t.wdtRun (s.wdt.presc + cycles - (256 - s.wdt.wtcnt.toNat) * s.wdtDivider))) ∧
    (s.wdt.wtcsr.getLsbD 6 = true → s.wdt.rstcsr.getLsbD 6 = true → s.wdtOverflow = .refused .watchdogReset) ∧
    (s.wdt.wtcsr.getLsbD 6 = false ∨ s.wdt.rstcsr.getLsbD 6 = false →
      ∃ t, s.wdtOverflow = .next t ∧ t = { s with wdt := t.wdt, intc := t.intc } ∧
        t.wdt.wtcsr = s.wdt.wtcsr ||| 0x80 ∧ t.wdt.wtcnt = s.wdt.wtcnt ∧ t.wdt.presc = s.wdt.presc ∧
        t.wdt.rstcsr = (if s.wdt.wtcsr.getLsbD 6 then s.wdt.rstcsr ||| 0x80 else s.wdt.rstcsr) ∧
        t.intc = { s.intc with pending := { s.intc.pending with
          wdt := s.intc.pending.wdt ||
            (match s.params.wdtIrqMode with
             | .watchdog => s.wdt.wtcsr.getLsbD 6
             | .interval => !s.wdt.wtcsr.getLsbD 6) } })) ∧
  (∀ s : State, s.params.wdtDivider = Config.defaultParams.wdtDivider →
    ∀ row ∈ ([(0, 2), (1, 64), (2, 128), (3, 256), (4, 512), (5, 1024), (6, 4096), (7, 8192)] : List (Nat × Nat)),
      s.wdt.wtcsr.toNat % 8 = row.1 → s.wdtDivider = row.2)

/-! ### DMA -/

/-- R458, R462 to R466: a channel is active exactly with `DE`, `DME`, no `TE`, no `NMIF`, no `AE` and a request; an inactive
channel's turn changes nothing. The unit's size is `TS` (a 16-byte block moves longwords), the modes are `SM` and `DM`. One
`DmaUnit` reads, then writes, steps the addresses by their modes and the count by one, and on reaching 0 sets `TE` and, if `IE`
is set, the channel's pending bit; the other channel, the core, the timer and the division unit are left alone. Where its read
or its write faults the step is that fault, with no state after it (R466); a reserved mode is a fault before either (R458). A
step is `DMA_UNITS_PER_STEP` units, four `DmaUnit`s each for the 16-byte block, and stops at completion. -/
def Obligations.ActiveChannelsMoveOneUnit : Prop :=
  (∀ (s : State) (c : Channel),
    (s.dmaActive c = true ↔
      ((s.chan c).chcr.getLsbD 0 = true ∧ s.dmaor.getLsbD 0 = true ∧ (s.chan c).chcr.getLsbD 1 = false ∧
        s.dmaor.getLsbD 1 = false ∧ s.dmaor.getLsbD 2 = false ∧
        ((s.chan c).chcr.getLsbD 9 = true ∨
          ((s.chan c).drcr.extractLsb' 0 2 = 0 ∧ (s.chan c).extTrigger = true)))) ∧
    (s.dmaActive c = false → dmaMove c s = .ok s) ∧
    (∀ ts : Nat, ts = (s.chan c).chcr.toNat / 2 ^ 10 % 4 →
      (s.chan c).unitSize = (if ts = 0 then .byte else if ts = 1 then .word else .long) ∧
      (s.dmaActive c = true → dmaMove c s = dmaUnits c (s.params.dmaUnitsPerStep.val * (if ts = 3 then 4 else 1)) s)) ∧
    (s.chan c).sourceMode.toNat = (s.chan c).chcr.toNat / 2 ^ 12 % 4 ∧
    (s.chan c).destMode.toNat = (s.chan c).chcr.toNat / 2 ^ 14 % 4 ∧
    dmaUnits c 0 s = .ok s ∧
    (∀ k f, dmaUnit c s = .error f → dmaUnits c (k + 1) s = .error f) ∧
    (∀ k t, dmaUnit c s = .ok t →
      dmaUnits c (k + 1) s = if (t.chan c).chcr.getLsbD 1 = true then .ok t else dmaUnits c k t) ∧
    ((s.chan c).sourceMode = 3 →
      dmaUnit c s = .error (.busPolicy (s.chan c).sar (s.chan c).unitSize .read (.dmac c))) ∧
    ((s.chan c).sourceMode ≠ 3 → (s.chan c).destMode = 3 →
      dmaUnit c s = .error (.busPolicy (s.chan c).dar (s.chan c).unitSize .write (.dmac c))) ∧
    ((s.chan c).sourceMode ≠ 3 → (s.chan c).destMode ≠ 3 →
      (∀ f, memRead (.dmac c) (s.chan c).unitSize (s.chan c).sar s = .error f → dmaUnit c s = .error f) ∧
      (∀ v s1 f, memRead (.dmac c) (s.chan c).unitSize (s.chan c).sar s = .ok (v, s1) →
        memWrite (.dmac c) (s.chan c).unitSize (s.chan c).dar v s1 = .error f → dmaUnit c s = .error f))) ∧
  (∀ (s s1 s2 : State) (c other : Channel) (v : Word), other ≠ c →
    memRead (.dmac c) (s.chan c).unitSize (s.chan c).sar s = .ok (v, s1) →
    memWrite (.dmac c) (s.chan c).unitSize (s.chan c).dar v s1 = .ok s2 →
    (s.chan c).sourceMode ≠ 3 → (s.chan c).destMode ≠ 3 →
    ∃ t, dmaUnit c s = .ok t ∧
    (let n := BitVec.ofNat 32 (s.chan c).unitSize.bytes
     let delta := fun mode : BitVec 2 => if mode = 0 then (0 : Word) else if mode = 1 then n else 0 - n
     let tcr := ((s.chan c).tcr - 1) &&& tcrMask s.params
     (t.chan c).sar = (s.chan c).sar + delta (s.chan c).sourceMode ∧
     (t.chan c).dar = (s.chan c).dar + delta (s.chan c).destMode ∧
     (t.chan c).tcr = tcr ∧
     (t.chan c).chcr = (if tcr = 0 then (s.chan c).chcr ||| 2 else (s.chan c).chcr) ∧
     t.intc.pending.get (.dmac c) =
       ((if tcr = 0 then (s.chan c).chcr.getLsbD 2 else false) || s.intc.pending.get (.dmac c)) ∧
     t.chan other = s.chan other ∧ t.mem = s2.mem ∧
     t = { s with
       mem := t.mem, stale := t.stale, intc := t.intc, dma0 := t.dma0, dma1 := t.dma1, draws := t.draws }))

/-- R468: a channel armed for 4 words in increment mode, both addresses in SDRAM and the two areas apart, one unit a step: four
steps copy exactly those four words and change no other byte, advance both addresses by 8, end the count at 0 with `TE` set,
and raise the completion interrupt exactly if it was enabled. -/
def Obligations.FourWordTransferCompletes : Prop :=
  ∀ (s : State) (c : Channel) (ie : Bool) (a b : Word),
    AtDefaultMap s → CanonicalMemory s → s.params.dmaUnitsPerStep = 1 → s.dmaor = 1 →
    (s.chan c).chcr = (if ie then 0x5605 else 0x5601) → (s.chan c).tcr = 4 → (s.chan c).sar = a → (s.chan c).dar = b →
    a.toNat % 2 = 0 → b.toNat % 2 = 0 → 0x6000000 ≤ a.toNat → a.toNat + 8 ≤ 0x6040000 →
    0x6000000 ≤ b.toNat → b.toNat + 8 ≤ 0x6040000 → (a.toNat + 8 ≤ b.toNat ∨ b.toNat + 8 ≤ a.toNat) →
    ∃ t1 t2 t3 t, dmaMove c s = .ok t1 ∧ dmaMove c t1 = .ok t2 ∧ dmaMove c t2 = .ok t3 ∧ dmaMove c t3 = .ok t ∧
      (∀ k : Nat, k < 4 →
        (memReadUncached .word (b + BitVec.ofNat 32 (2 * k)) t).map (·.1) =
          (memReadUncached .word (a + BitVec.ofNat 32 (2 * k)) s).map (·.1)) ∧
      (∀ x : Nat, x < Config.sdramStore + (b.toNat - 0x6000000) ∨ Config.sdramStore + (b.toNat - 0x6000000) + 8 ≤ x →
        t.heldByte x = s.heldByte x) ∧
      (t.chan c).sar = a + 8 ∧ (t.chan c).dar = b + 8 ∧ (t.chan c).tcr = 0 ∧ (t.chan c).chcr.getLsbD 1 = true ∧
      t.intc.pending.get (.dmac c) = (ie || s.intc.pending.get (.dmac c))

/-! ### Reset and what every step keeps -/

/-- R50, R501, R502: what the spec says every reset leaves, at `State.reset`. (The registers without a reset value are the
model's: log 1, 2, 3; nothing is said of them here.) -/
def Obligations.ResetLeavesTheStatedValues : Prop :=
  State.reset.vbr = 0 ∧ State.reset.imask = 0xF ∧ State.reset.sr &&& 0xFFFFFC0C = 0 ∧
  State.reset.delaySlot = none ∧ State.reset.run = .running ∧
  memRead .core .long 0 State.reset = .ok (State.reset.pc, State.reset) ∧
  memRead .core .long 4 State.reset = .ok (State.reset.reg 15, State.reset) ∧
  (∀ src : Source, State.reset.intc.pending.get src = false) ∧ State.reset.intc.mask = 0 ∧
  State.reset.intc.ipra = 0 ∧ State.reset.intc.iprb = 0 ∧ State.reset.intc.vcrwdt = 0 ∧
  State.reset.intc.vcra = 0 ∧ State.reset.intc.vcrb = 0 ∧ State.reset.intc.vcrc = 0 ∧ State.reset.intc.vcrd = 0 ∧
  State.reset.intc.icr = 0 ∧
  State.reset.dma0.chcr = 0 ∧ State.reset.dma1.chcr = 0 ∧ State.reset.dma0.drcr = 0 ∧ State.reset.dma1.drcr = 0 ∧
  State.reset.dmaor = 0 ∧ State.reset.dma0.extTrigger = false ∧ State.reset.dma1.extTrigger = false ∧
  State.reset.divu.dvcr = 0 ∧ State.reset.wdt.wtcsr = 0x18 ∧ State.reset.wdt.wtcnt = 0 ∧ State.reset.wdt.presc = 0 ∧
  State.reset.wdt.rstcsr = 0x1F ∧ State.reset.sbycr = 0x60 ∧ State.reset.ccr = 0

/-- R500 to R502: the reset event. The core starts at the longwords at 0 and 4, the controllers hold their reset values, the bytes
of both ROM images stay, and no byte of SDRAM or of the on-chip storage is held any more. That the frame buffer and its bank bit
stay, being the Host's, is the model's choice (log 16, 22), and so is the value 0 of the controller registers without a stated
reset value (log 3). -/
def Obligations.ResetEventRestartsTheNode : Prop :=
  ∀ (s t : State) (rest : List Event), s.schedule = .hostReset :: rest → CanonicalMemory s → step s = .next t →
    t.vbr = 0 ∧ t.imask = 0xF ∧ MaskedSr t ∧ t.delaySlot = none ∧ t.run = .running ∧
    t.intc = State.reset.intc ∧ t.dmaor = 0 ∧ t.dma0 = State.reset.dma0 ∧ t.dma1 = State.reset.dma1 ∧
    t.divu = State.reset.divu ∧ t.wdt = State.reset.wdt ∧ t.sbycr = 0x60 ∧ t.ccr = 0 ∧
    t.schedule = rest ∧ t.params = s.params ∧ t.cartLength = s.cartLength ∧
    (∀ a, a < Config.frameBufferStore → t.heldByte a = s.heldByte a) ∧
    (∀ a, Config.frameBufferStore ≤ a → a < Config.sdramStore → t.heldByte a = s.heldByte a) ∧ t.fbBank = s.fbBank ∧
    (∀ a, Config.sdramStore ≤ a → t.heldByte a = none) ∧
    (AtDefaultMap s → s.params.cacheModel = .transparent →
      memRead .core .long 0 t = .ok (t.pc, t) ∧ memRead .core .long 4 t = .ok (t.reg 15, t))

/-- The invariant holds after reset; the registers without a stated reset value hold the model's values (log 1, 2, 3). -/
def Obligations.InvariantHoldsAtReset : Prop := Inv State.reset

/-- R29: every write of a whole value to `SR` stores the value masked by 0x3F3; the reserved bits are 0 after reset and every
step of every agent keeps them 0; every read of `SR` (`STC`, `STC.L`, exception entry, whose frame in SDRAM then holds the
masked value) then has zeros there. -/
def Obligations.StatusRegisterStaysMasked : Prop :=
  MaskedSr State.reset ∧
  (∀ s t : State, MaskedSr s → step s = .next t → MaskedSr t) ∧
  (∀ (s t : State) (m : Reg), exec (.ldcSr m) s = .next t → t.sr = s.reg m &&& 0x3F3) ∧
  (∀ (s t s1 : State) (m : Reg) (v : Word), memRead .core .long (s.reg m) s = .ok (v, s1) →
    exec (.ldcLSr m) s = .next t → t.sr = v &&& 0x3F3) ∧
  (∀ (s t s1 s2 s3 : State) (target v : Word), memRead .core .long (s.reg 15) s = .ok (target, s1) →
    interpose (s1.setReg 15 (s.reg 15 + 4)) = .next s2 → memRead .core .long (s.reg 15 + 4) s2 = .ok (v, s3) →
    exec .rte s = .next t → t.sr = v &&& 0x3F3) ∧
  (∀ (s t : State) (n : Reg), MaskedSr s → exec (.stcSr n) s = .next t → t.reg n &&& 0xFFFFFC0C = 0) ∧
  (∀ (s : State) (n : Reg), MaskedSr s → StoresStepping (.stcLSr n) .long n (s.sr &&& 0x3F3) s) ∧
  (∀ (s : State) (vector : Nat) (savedPc : Word) (newImask : Option (BitVec 4)), MaskedSr s →
    EntersHandler (enter vector savedPc newImask s) vector savedPc newImask { s with sr := s.sr &&& 0x3F3 }) ∧
  (∀ (s t : State) (vector : Nat) (savedPc : Word) (newImask : Option (BitVec 4)), MaskedSr s →
    AtDefaultMap s → CanonicalMemory s → s.inside = [] → (s.reg 15).toNat % 4 = 0 → 0x6000008 ≤ (s.reg 15).toNat →
    (s.reg 15).toNat ≤ 0x6040000 →
    enter vector savedPc newImask s = .next t →
    ∃ u, memRead .core .long (t.reg 15 + 4) t = .ok (s.sr &&& 0x3F3, u))

/-- Every step of every agent keeps the invariant: `SR` masked (R29), memory canonical, no delay slot between steps (R45), and
the controllers' reserved and hardware-only bits as the spec says they read (R450, R457 to R460, R477, R483, R487). -/
def Obligations.EveryStepKeepsTheInvariant : Prop :=
  ∀ s t : State, Inv s → step s = .next t → Inv t

/-- R85: no step of any agent changes a byte of the boot ROM or of the cartridge ROM (the two stores below the frame
buffer's); the parameters are constant too (R6). -/
def Obligations.RomContentsAreConstant : Prop :=
  ∀ s t : State, step s = .next t →
    (∀ a : Nat, a < Config.frameBufferStore → t.heldByte a = s.heldByte a) ∧
    t.cartLength = s.cartLength ∧ t.params = s.params

/-- R30 to R35, R41, R42, R48: no instruction but those the rules list changes `T`, `S`, `IMASK`, `Q`, `M`, `GBR`, `VBR`,
`PR`, `MACH`, `MACL` or the run state. -/
def Obligations.OnlyTheListedInstructionsWriteSpecialRegisters : Prop :=
  ∀ (i : Instr) (s t : State), exec i s = .next t →
    (i.writesT = false → t.t = s.t) ∧ (i.writesQ = false → t.q = s.q) ∧ (i.writesM = false → t.m = s.m) ∧
    (i.writesWholeSr = false → t.sBit = s.sBit ∧ t.imask = s.imask) ∧
    (i.writesGbr = false → t.gbr = s.gbr) ∧ (i.writesVbr = false → t.vbr = s.vbr) ∧
    (i.writesPr = false → t.pr = s.pr) ∧ (i.writesMach = false → t.mach = s.mach) ∧
    (i.writesMacl = false → t.macl = s.macl) ∧ (i ≠ .sleep → t.run = s.run)
end

