-- ==== Sys2Proof/Laws/Memory.lean ====
section
/-! SUPPORT. The laws of the byte stores: read after write, writes elsewhere, and the canonical form, which every memory
operation keeps. -/

namespace Sys2Proof.Machine

theorem Memory.get?_insert (m : Memory) (a k : Nat) (b : Byte) :
    (Memory.insert m a b).get? k = if k = a then some b else m.get? k := by
  induction m with
  | nil => simp [Memory.insert, Memory.get?, eq_comm]
  | cons c m ih =>
    obtain ⟨x, y⟩ := c
    simp only [Memory.insert]
    split
    · simp only [Memory.get?]
      by_cases h : k = a
      · simp [h]
      · simp [h, Ne.symm h]
    · split
      · subst_vars
        simp only [Memory.get?]
        by_cases h : k = x <;> simp [h, eq_comm]
      · simp only [Memory.get?, ih]
        split <;> split <;> simp_all

theorem Memory.risingFrom_mono {lo lo' : Nat} (h : lo' ≤ lo) {m : Memory} :
    Memory.risingFrom lo m = true → Memory.risingFrom lo' m = true := by
  cases m with
  | nil => simp [Memory.risingFrom]
  | cons c m =>
    obtain ⟨x, y⟩ := c
    simp only [Memory.risingFrom, Bool.and_eq_true, decide_eq_true_eq]
    exact fun ⟨h1, h2⟩ => ⟨Nat.le_trans h h1, h2⟩

/-- Below the first listed address nothing is listed. -/
theorem Memory.get?_below {m : Memory} : ∀ {lo k : Nat}, Memory.risingFrom lo m = true → k < lo → m.get? k = none := by
  induction m with
  | nil => intros; rfl
  | cons c m ih =>
    obtain ⟨x, y⟩ := c
    intro lo k h hk
    simp only [Memory.risingFrom, Bool.and_eq_true, decide_eq_true_eq] at h
    have : ¬ x = k := by omega
    simp only [Memory.get?, this, if_false]
    exact ih h.2 (by omega)

theorem Memory.get?_erase {m : Memory} (a k : Nat) : ∀ {lo : Nat}, Memory.risingFrom lo m = true →
    (Memory.erase m a).get? k = if k = a then none else m.get? k := by
  induction m with
  | nil => intros; simp [Memory.erase, Memory.get?]
  | cons c m ih =>
    obtain ⟨x, y⟩ := c
    intro lo h
    simp only [Memory.risingFrom, Bool.and_eq_true, decide_eq_true_eq] at h
    simp only [Memory.erase]
    by_cases hx : x = a
    · subst hx
      simp only [if_true]
      by_cases hk : k = x
      · subst hk
        simpa using Memory.get?_below h.2 (Nat.lt_succ_self k)
      · have : ¬ x = k := fun e => hk e.symm
        simp [Memory.get?, hk, this]
    · simp only [hx, if_false, Memory.get?, ih h.2]
      by_cases hk : x = k
      · have : ¬ k = a := fun e => hx (hk.trans e)
        simp [hk, this]
      · simp [hk]

theorem Memory.risingFrom_insert (m : Memory) (a : Nat) (b : Byte) : ∀ {lo : Nat}, lo ≤ a →
    Memory.risingFrom lo m = true → Memory.risingFrom lo (Memory.insert m a b) = true := by
  induction m with
  | nil => intro lo h _; simpa [Memory.insert, Memory.risingFrom] using h
  | cons c m ih =>
    obtain ⟨x, y⟩ := c
    intro lo ha h
    simp only [Memory.risingFrom, Bool.and_eq_true, decide_eq_true_eq] at h
    simp only [Memory.insert]
    split
    · simp only [Memory.risingFrom, Bool.and_eq_true, decide_eq_true_eq]
      exact ⟨ha, by omega, h.2⟩
    · split
      · subst_vars
        simp only [Memory.risingFrom, Bool.and_eq_true, decide_eq_true_eq]
        exact ⟨ha, h.2⟩
      · simp only [Memory.risingFrom, Bool.and_eq_true, decide_eq_true_eq]
        exact ⟨h.1, ih (by omega) h.2⟩

theorem Memory.risingFrom_filter (p : Host.Cell → Bool) (m : Memory) : ∀ {lo : Nat},
    Memory.risingFrom lo m = true → Memory.risingFrom lo (m.filter p) = true := by
  induction m with
  | nil => intro lo _; rfl
  | cons c m ih =>
    obtain ⟨x, y⟩ := c
    intro lo h
    simp only [Memory.risingFrom, Bool.and_eq_true, decide_eq_true_eq] at h
    rw [List.filter_cons]
    split
    · simp only [Memory.risingFrom, Bool.and_eq_true, decide_eq_true_eq]
      exact ⟨h.1, ih h.2⟩
    · exact Memory.risingFrom_mono (by omega) (ih h.2)

theorem Memory.risingFrom_erase (m : Memory) (a : Nat) : ∀ {lo : Nat},
    Memory.risingFrom lo m = true → Memory.risingFrom lo (Memory.erase m a) = true := by
  induction m with
  | nil => intro lo _; rfl
  | cons c m ih =>
    obtain ⟨x, y⟩ := c
    intro lo h
    simp only [Memory.risingFrom, Bool.and_eq_true, decide_eq_true_eq] at h
    simp only [Memory.erase]
    split
    · exact Memory.risingFrom_mono (by omega) h.2
    · simp only [Memory.risingFrom, Bool.and_eq_true, decide_eq_true_eq]
      exact ⟨h.1, ih h.2⟩

theorem Memory.mem_insert {m : Memory} {a : Nat} {b : Byte} {c : Host.Cell} :
    c ∈ Memory.insert m a b → c = (a, b) ∨ c ∈ m := by
  induction m with
  | nil => simp [Memory.insert]
  | cons d m ih =>
    obtain ⟨x, y⟩ := d
    simp only [Memory.insert]
    split
    · simp
    · split
      · simp only [List.mem_cons]
        exact fun h => h.elim .inl (fun h => .inr (.inr h))
      · simp only [List.mem_cons]
        exact fun h => h.elim (fun h => .inr (.inl h)) (fun h => (ih h).elim .inl (fun h => .inr (.inr h)))

theorem Memory.mem_erase {m : Memory} {a : Nat} {c : Host.Cell} : c ∈ Memory.erase m a → c ∈ m := by
  induction m with
  | nil => simp [Memory.erase]
  | cons d m ih =>
    obtain ⟨x, y⟩ := d
    simp only [Memory.erase]
    split
    · exact List.mem_cons_of_mem _
    · simp only [List.mem_cons]
      exact fun h => h.elim .inl (fun h => .inr (ih h))

theorem Memory.wf_iff (m : Memory) : m.wf = true ↔
    Memory.risingFrom 0 m = true ∧ ∀ c ∈ m, unlistedByte c.1 ≠ some c.2 := by
  simp [Memory.wf]

/-- A write of one byte keeps the canonical form. -/
theorem Memory.wf_set {m : Memory} (h : m.wf = true) (a : Nat) (b : Byte) : (m.set a b).wf = true := by
  rw [Memory.wf_iff] at h ⊢
  unfold Memory.set
  split
  · exact ⟨Memory.risingFrom_erase m a h.1, fun c hc => h.2 c (Memory.mem_erase hc)⟩
  · rename_i hb
    refine ⟨Memory.risingFrom_insert m a b (Nat.zero_le a) h.1, fun c hc => ?_⟩
    rcases Memory.mem_insert hc with rfl | hc
    · exact hb
    · exact h.2 c hc

/-- A write of bytes keeps the canonical form. -/
theorem Memory.wf_setCells (cs : List Host.Cell) : ∀ {m : Memory}, m.wf = true → (m.setCells cs).wf = true := by
  induction cs with
  | nil => exact fun h => h
  | cons c cs ih => exact fun h => ih (Memory.wf_set h c.1 c.2)

/-- Forgetting bytes keeps the canonical form. -/
theorem Memory.wf_filter {m : Memory} (p : Host.Cell → Bool) (h : m.wf = true) :
    Memory.wf (m.filter p) = true := by
  rw [Memory.wf_iff] at h ⊢
  exact ⟨Memory.risingFrom_filter p m h.1, fun c hc => h.2 c (List.mem_of_mem_filter hc)⟩

/-- The memory after reset is in canonical form. -/
theorem Memory.wf_reset : State.reset.mem.wf = true := by decide

/-- What is held after a write of one byte: the byte at its address, as before elsewhere. -/
theorem Memory.get?_set {m : Memory} (h : m.wf = true) (a k : Nat) (b : Byte) :
    (((m.set a b).get? k).or (unlistedByte k)) = if k = a then some b else (m.get? k).or (unlistedByte k) := by
  rw [Memory.wf_iff] at h
  unfold Memory.set
  split
  · rename_i hb
    rw [Memory.get?_erase a k h.1]
    by_cases hk : k = a
    · subst hk; simp [hb]
    · simp [hk]
  · rw [Memory.get?_insert]
    by_cases hk : k = a <;> simp [hk]

/-- Away from its address a write of one byte changes nothing held, in any list of bytes. -/
theorem Memory.get?_set_ne (m : Memory) {a k : Nat} (hk : k ≠ a) (b : Byte) : (m.set a b).get? k = m.get? k := by
  unfold Memory.set
  split
  · induction m with
    | nil => rfl
    | cons c m ih =>
      obtain ⟨x, y⟩ := c
      simp only [Memory.erase]
      by_cases hx : x = a
      · subst hx
        have : ¬ x = k := fun e => hk e.symm
        simp [Memory.get?, this]
      · simp only [hx, if_false, Memory.get?, ih]
  · rw [Memory.get?_insert, if_neg hk]

theorem State.heldByte_or (s : State) (a : Nat) : s.heldByte a = (s.mem.get? a).or (unlistedByte a) := by
  unfold State.heldByte
  cases s.mem.get? a <;> rfl

/-- A byte outside the cells written is held as before. -/
theorem State.heldByte_writeCells_of_not_mem (cs : List Host.Cell) : ∀ (s : State) {a : Nat}, a ∉ cs.map (·.1) →
    (s.writeCells cs).heldByte a = s.heldByte a := by
  have key : ∀ (cs : List Host.Cell) (m : Memory) {a : Nat}, a ∉ cs.map (·.1) → (m.setCells cs).get? a = m.get? a := by
    intro cs
    induction cs with
    | nil => intros; rfl
    | cons c cs ih =>
      intro m a h
      simp only [List.map_cons, List.mem_cons, not_or] at h
      exact (ih _ h.2).trans (Memory.get?_set_ne m h.1 c.2)
  intro s a h
  rw [State.heldByte_or, State.heldByte_or]
  exact congrArg (·.or (unlistedByte a)) (key cs s.mem h)

/-- A byte just written is held, whatever the list of bytes was, when its memory is canonical. -/
theorem State.heldByte_writeCells_one {s : State} (h : s.mem.wf = true) (a k : Nat) (b : Byte) :
    (s.writeCells [(a, b)]).heldByte k = if k = a then some b else s.heldByte k := by
  rw [State.heldByte_or, State.heldByte_or]
  exact Memory.get?_set h a k b

/-- Writing more bytes after the first. -/
theorem State.writeCells_cons (s : State) (c : Host.Cell) (cs : List Host.Cell) :
    s.writeCells (c :: cs) = (s.writeCells [c]).writeCells cs := rfl

/-- A write of bytes keeps the canonical form. -/
theorem State.wf_writeCells {s : State} (h : s.mem.wf = true) (cs : List Host.Cell) : (s.writeCells cs).mem.wf = true :=
  Memory.wf_setCells cs h

/-! ### The earlier values of a byte (R98) -/

/-- A purge changes the list of earlier values alone. -/
theorem State.purgeByte_frame (s : State) (a : Nat) : s.purgeByte a = { s with stale := (s.purgeByte a).stale } := rfl

/-- Keeping an earlier value changes that list alone. -/
theorem State.keepEarlier_frame (s : State) (f : Bool) (a : Nat) (now : Option Byte) :
    s.keepEarlier f a now = { s with stale := (s.keepEarlier f a now).stale } := by
  unfold State.keepEarlier; split <;> rfl

/-- Without the stale model nothing is kept. -/
theorem State.keepEarlier_transparent {s : State} (h : s.params.cacheModel = .transparent) (f : Bool) (a : Nat)
    (now : Option Byte) : s.keepEarlier f a now = s := by
  unfold State.keepEarlier; rw [h]

theorem State.keepCells_frame (s : State) (f : Bool) (cs : List Host.Cell) :
    s.keepCells f cs = { s with stale := (s.keepCells f cs).stale } := by
  have some : ∀ s : State, ∃ l, s.keepCells f cs = { s with stale := l } := by
    induction cs with
    | nil => exact fun s => ⟨s.stale, rfl⟩
    | cons c cs ih =>
      intro s
      obtain ⟨l, hl⟩ := ih (s.keepEarlier f c.1 (s.heldByte c.1))
      refine ⟨l, hl.trans ?_⟩
      rw [State.keepEarlier_frame]
  obtain ⟨l, hl⟩ := some s
  rw [hl]

theorem State.keepCells_transparent {s : State} (h : s.params.cacheModel = .transparent) (f : Bool)
    (cs : List Host.Cell) : s.keepCells f cs = s := by
  induction cs with
  | nil => rfl
  | cons c cs ih =>
    show (s.keepEarlier f c.1 (s.heldByte c.1)).keepCells f cs = s
    rw [State.keepEarlier_transparent h, ih]

/-- A write with its earlier values kept is the write, and the list of earlier values. -/
theorem State.storeCells_eq (s : State) (f : Bool) (cs : List Host.Cell) :
    s.storeCells f cs = { s.writeCells cs with stale := (s.keepCells f cs).stale } := by
  unfold State.storeCells
  rw [State.keepCells_frame]
  rfl

/-- Without the stale model it is the write. -/
theorem State.storeCells_transparent {s : State} (h : s.params.cacheModel = .transparent) (f : Bool)
    (cs : List Host.Cell) : s.storeCells f cs = s.writeCells cs := by
  unfold State.storeCells; rw [State.keepCells_transparent h]

/-- The list of earlier values is no byte of memory. -/
@[simp] theorem State.heldByte_stale (s : State) (l : List StaleByte) (a : Nat) :
    ({ s with stale := l } : State).heldByte a = s.heldByte a := rfl

theorem State.heldByte_storeCells (s : State) (f : Bool) (cs : List Host.Cell) (a : Nat) :
    (s.storeCells f cs).heldByte a = (s.writeCells cs).heldByte a := by
  rw [State.storeCells_eq]; rfl

/-- A byte that is not purged keeps its entry. -/
theorem find?_filter_key (l : List StaleByte) {a b : Nat} (h : a ≠ b) :
    (l.filter (fun e => e.key != b)).find? (fun e => e.key = a) = l.find? (fun e => e.key = a) := by
  induction l with
  | nil => rfl
  | cons e l ih =>
    by_cases hb : e.key = b
    · have ha : ¬ e.key = a := fun h' => h (h'.symm.trans hb)
      simp [hb, ih, Ne.symm h]
    · by_cases ha : e.key = a
      · subst ha
        simp [hb]
      · simp [hb, ha, ih]

/-- After a purge of a byte nothing earlier is left of it. -/
theorem State.history_purgeByte (s : State) (a b : Nat) :
    (s.purgeByte b).history a = if a = b then [] else s.history a := by
  unfold State.history State.purgeByte
  by_cases h : a = b
  · subst h
    have : (s.stale.filter (fun e => e.key != a)).find? (fun e => e.key = a) = none := by
      rw [List.find?_eq_none]
      intro e he
      have := (List.mem_filter.mp he).2
      simpa using this
    simp [this]
  · simp only [find?_filter_key s.stale h, h, if_false]

theorem State.writtenAround_purgeByte (s : State) (a b : Nat) :
    (s.purgeByte b).writtenAround a = if a = b then false else s.writtenAround a := by
  unfold State.writtenAround State.purgeByte
  by_cases h : a = b
  · subst h
    have : (s.stale.filter (fun e => e.key != a)).find? (fun e => e.key = a) = none := by
      rw [List.find?_eq_none]
      intro e he
      have := (List.mem_filter.mp he).2
      simpa using this
    simp [this]
  · simp only [find?_filter_key s.stale h, h, if_false]

/-- What is kept of a byte after its value is kept: that value first. -/
theorem State.history_keepEarlier {s : State} (hm : s.params.cacheModel = .staleDraw) (f : Bool) (a b : Nat)
    (now : Option Byte) :
    (s.keepEarlier f b now).history a = if a = b then now :: s.history b else s.history a := by
  unfold State.keepEarlier
  rw [hm]
  by_cases h : a = b
  · subst h; simp [State.history]
  · have := State.history_purgeByte s a b
    simp only [h, if_false] at this ⊢
    rw [← this]
    simp [State.history, Ne.symm h]

theorem State.writtenAround_keepEarlier {s : State} (hm : s.params.cacheModel = .staleDraw) (f : Bool) (a b : Nat)
    (now : Option Byte) :
    (s.keepEarlier f b now).writtenAround a = if a = b then f else s.writtenAround a := by
  unfold State.keepEarlier
  rw [hm]
  by_cases h : a = b
  · subst h; simp [State.writtenAround]
  · have := State.writtenAround_purgeByte s a b
    simp only [h, if_false] at this ⊢
    rw [← this]
    simp [State.writtenAround, Ne.symm h]

/-- A read that sees the store itself, or a byte with nothing earlier, sees what is held. -/
theorem State.pick_latest (s : State) {cached : Bool} {a : Nat} (h : cached = false ∨ s.earlier a = []) (lane : Nat)
    (now : Option Byte) : s.pick cached a lane now = now := by
  unfold State.pick
  rcases h with rfl | h
  · rfl
  · rw [h]; exact ite_self now

/-- Whatever a read sees is what is held or an earlier value. -/
theorem State.pick_mem (s : State) (cached : Bool) (a lane : Nat) (now : Option Byte) :
    s.pick cached a lane now = now ∨ s.pick cached a lane now ∈ s.earlier a := by
  unfold State.pick
  split
  · split
    · exact .inl rfl
    · rename_i old olds h
      have hlt : Config.staleChoice s.draws lane % (olds.length + 2) < (now :: old :: olds).length := by
        simpa using Nat.mod_lt _ (Nat.succ_pos (olds.length + 1))
      rw [h, List.getD_eq_getElem?_getD, List.getElem?_eq_getElem hlt, Option.getD_some]
      exact List.mem_cons.mp (List.getElem_mem hlt)
  · exact .inl rfl

/-- The addresses of bytes laid out from `a`. -/
theorem cellsAt_addresses (a : Nat) (bs : List Byte) : (cellsAt a bs).map (·.1) = List.range' a bs.length := by
  induction bs generalizing a with
  | nil => rfl
  | cons b bs ih => simp [cellsAt, List.range'_succ, ih]

/-- As many bytes as the access has. -/
@[simp] theorem beBytes_length (sz : Size) (v : Word) : (beBytes sz v).length = sz.bytes := by cases sz <;> rfl

/-- Reading the bytes of a value back gives the value, cut to the access (R60, R62). -/
theorem beValue_beBytes (sz : Size) (v : Word) : beValue (beBytes sz v) = truncate sz v := by
  cases sz <;> simp only [beValue, beBytes, truncate, List.foldl, zext8, zext16] <;> ext i hi <;>
    simp <;> interval_cases i <;> simp

end Sys2Proof.Machine
end

