-- ==== Sys2Proof/Laws/State.lean ====
section
/-! SUPPORT. One lemma for each field under each update of the state, so that no later proof unfolds a record update. -/

namespace Sys2Proof.Machine

@[simp] theorem State.setReg_params (s : State) (i : Reg) (v : Word) : (s.setReg i v).params = s.params := rfl
@[simp] theorem State.setReg_pc (s : State) (i : Reg) (v : Word) : (s.setReg i v).pc = s.pc := rfl
@[simp] theorem State.setReg_sr (s : State) (i : Reg) (v : Word) : (s.setReg i v).sr = s.sr := rfl
@[simp] theorem State.setReg_gbr (s : State) (i : Reg) (v : Word) : (s.setReg i v).gbr = s.gbr := rfl
@[simp] theorem State.setReg_vbr (s : State) (i : Reg) (v : Word) : (s.setReg i v).vbr = s.vbr := rfl
@[simp] theorem State.setReg_mach (s : State) (i : Reg) (v : Word) : (s.setReg i v).mach = s.mach := rfl
@[simp] theorem State.setReg_macl (s : State) (i : Reg) (v : Word) : (s.setReg i v).macl = s.macl := rfl
@[simp] theorem State.setReg_pr (s : State) (i : Reg) (v : Word) : (s.setReg i v).pr = s.pr := rfl
@[simp] theorem State.setReg_delaySlot (s : State) (i : Reg) (v : Word) : (s.setReg i v).delaySlot = s.delaySlot := rfl
@[simp] theorem State.setReg_run (s : State) (i : Reg) (v : Word) : (s.setReg i v).run = s.run := rfl
@[simp] theorem State.setReg_mem (s : State) (i : Reg) (v : Word) : (s.setReg i v).mem = s.mem := rfl
@[simp] theorem State.setReg_cartLength (s : State) (i : Reg) (v : Word) : (s.setReg i v).cartLength = s.cartLength := rfl
@[simp] theorem State.setReg_fbBank (s : State) (i : Reg) (v : Word) : (s.setReg i v).fbBank = s.fbBank := rfl
@[simp] theorem State.setReg_intc (s : State) (i : Reg) (v : Word) : (s.setReg i v).intc = s.intc := rfl
@[simp] theorem State.setReg_dma0 (s : State) (i : Reg) (v : Word) : (s.setReg i v).dma0 = s.dma0 := rfl
@[simp] theorem State.setReg_dma1 (s : State) (i : Reg) (v : Word) : (s.setReg i v).dma1 = s.dma1 := rfl
@[simp] theorem State.setReg_dmaor (s : State) (i : Reg) (v : Word) : (s.setReg i v).dmaor = s.dmaor := rfl
@[simp] theorem State.setReg_divu (s : State) (i : Reg) (v : Word) : (s.setReg i v).divu = s.divu := rfl
@[simp] theorem State.setReg_wdt (s : State) (i : Reg) (v : Word) : (s.setReg i v).wdt = s.wdt := rfl
@[simp] theorem State.setReg_sbycr (s : State) (i : Reg) (v : Word) : (s.setReg i v).sbycr = s.sbycr := rfl
@[simp] theorem State.setReg_ccr (s : State) (i : Reg) (v : Word) : (s.setReg i v).ccr = s.ccr := rfl
@[simp] theorem State.setReg_draws (s : State) (i : Reg) (v : Word) : (s.setReg i v).draws = s.draws := rfl
@[simp] theorem State.setReg_epoch (s : State) (i : Reg) (v : Word) : (s.setReg i v).epoch = s.epoch := rfl
@[simp] theorem State.setReg_schedule (s : State) (i : Reg) (v : Word) : (s.setReg i v).schedule = s.schedule := rfl
@[simp] theorem State.setReg_inside (s : State) (i : Reg) (v : Word) : (s.setReg i v).inside = s.inside := rfl
@[simp] theorem State.setReg_stale (s : State) (i : Reg) (v : Word) : (s.setReg i v).stale = s.stale := rfl

@[simp] theorem State.advance_params (s : State) : s.advance.params = s.params := rfl
@[simp] theorem State.advance_regs (s : State) : s.advance.regs = s.regs := rfl
@[simp] theorem State.advance_sr (s : State) : s.advance.sr = s.sr := rfl
@[simp] theorem State.advance_gbr (s : State) : s.advance.gbr = s.gbr := rfl
@[simp] theorem State.advance_vbr (s : State) : s.advance.vbr = s.vbr := rfl
@[simp] theorem State.advance_mach (s : State) : s.advance.mach = s.mach := rfl
@[simp] theorem State.advance_macl (s : State) : s.advance.macl = s.macl := rfl
@[simp] theorem State.advance_pr (s : State) : s.advance.pr = s.pr := rfl
@[simp] theorem State.advance_delaySlot (s : State) : s.advance.delaySlot = s.delaySlot := rfl
@[simp] theorem State.advance_run (s : State) : s.advance.run = s.run := rfl
@[simp] theorem State.advance_mem (s : State) : s.advance.mem = s.mem := rfl
@[simp] theorem State.advance_cartLength (s : State) : s.advance.cartLength = s.cartLength := rfl
@[simp] theorem State.advance_fbBank (s : State) : s.advance.fbBank = s.fbBank := rfl
@[simp] theorem State.advance_intc (s : State) : s.advance.intc = s.intc := rfl
@[simp] theorem State.advance_dma0 (s : State) : s.advance.dma0 = s.dma0 := rfl
@[simp] theorem State.advance_dma1 (s : State) : s.advance.dma1 = s.dma1 := rfl
@[simp] theorem State.advance_dmaor (s : State) : s.advance.dmaor = s.dmaor := rfl
@[simp] theorem State.advance_divu (s : State) : s.advance.divu = s.divu := rfl
@[simp] theorem State.advance_wdt (s : State) : s.advance.wdt = s.wdt := rfl
@[simp] theorem State.advance_sbycr (s : State) : s.advance.sbycr = s.sbycr := rfl
@[simp] theorem State.advance_ccr (s : State) : s.advance.ccr = s.ccr := rfl
@[simp] theorem State.advance_draws (s : State) : s.advance.draws = s.draws := rfl
@[simp] theorem State.advance_epoch (s : State) : s.advance.epoch = s.epoch := rfl
@[simp] theorem State.advance_schedule (s : State) : s.advance.schedule = s.schedule := rfl
@[simp] theorem State.advance_inside (s : State) : s.advance.inside = s.inside := rfl
@[simp] theorem State.advance_stale (s : State) : s.advance.stale = s.stale := rfl

@[simp] theorem State.setSr_params (s : State) (v : Word) : (s.setSr v).params = s.params := rfl
@[simp] theorem State.setSr_regs (s : State) (v : Word) : (s.setSr v).regs = s.regs := rfl
@[simp] theorem State.setSr_pc (s : State) (v : Word) : (s.setSr v).pc = s.pc := rfl
@[simp] theorem State.setSr_gbr (s : State) (v : Word) : (s.setSr v).gbr = s.gbr := rfl
@[simp] theorem State.setSr_vbr (s : State) (v : Word) : (s.setSr v).vbr = s.vbr := rfl
@[simp] theorem State.setSr_mach (s : State) (v : Word) : (s.setSr v).mach = s.mach := rfl
@[simp] theorem State.setSr_macl (s : State) (v : Word) : (s.setSr v).macl = s.macl := rfl
@[simp] theorem State.setSr_pr (s : State) (v : Word) : (s.setSr v).pr = s.pr := rfl
@[simp] theorem State.setSr_delaySlot (s : State) (v : Word) : (s.setSr v).delaySlot = s.delaySlot := rfl
@[simp] theorem State.setSr_run (s : State) (v : Word) : (s.setSr v).run = s.run := rfl
@[simp] theorem State.setSr_mem (s : State) (v : Word) : (s.setSr v).mem = s.mem := rfl
@[simp] theorem State.setSr_cartLength (s : State) (v : Word) : (s.setSr v).cartLength = s.cartLength := rfl
@[simp] theorem State.setSr_fbBank (s : State) (v : Word) : (s.setSr v).fbBank = s.fbBank := rfl
@[simp] theorem State.setSr_intc (s : State) (v : Word) : (s.setSr v).intc = s.intc := rfl
@[simp] theorem State.setSr_dma0 (s : State) (v : Word) : (s.setSr v).dma0 = s.dma0 := rfl
@[simp] theorem State.setSr_dma1 (s : State) (v : Word) : (s.setSr v).dma1 = s.dma1 := rfl
@[simp] theorem State.setSr_dmaor (s : State) (v : Word) : (s.setSr v).dmaor = s.dmaor := rfl
@[simp] theorem State.setSr_divu (s : State) (v : Word) : (s.setSr v).divu = s.divu := rfl
@[simp] theorem State.setSr_wdt (s : State) (v : Word) : (s.setSr v).wdt = s.wdt := rfl
@[simp] theorem State.setSr_sbycr (s : State) (v : Word) : (s.setSr v).sbycr = s.sbycr := rfl
@[simp] theorem State.setSr_ccr (s : State) (v : Word) : (s.setSr v).ccr = s.ccr := rfl
@[simp] theorem State.setSr_draws (s : State) (v : Word) : (s.setSr v).draws = s.draws := rfl
@[simp] theorem State.setSr_epoch (s : State) (v : Word) : (s.setSr v).epoch = s.epoch := rfl
@[simp] theorem State.setSr_schedule (s : State) (v : Word) : (s.setSr v).schedule = s.schedule := rfl
@[simp] theorem State.setSr_inside (s : State) (v : Word) : (s.setSr v).inside = s.inside := rfl
@[simp] theorem State.setSr_stale (s : State) (v : Word) : (s.setSr v).stale = s.stale := rfl

@[simp] theorem State.setT_params (s : State) (b : Bool) : (s.setT b).params = s.params := rfl
@[simp] theorem State.setT_regs (s : State) (b : Bool) : (s.setT b).regs = s.regs := rfl
@[simp] theorem State.setT_pc (s : State) (b : Bool) : (s.setT b).pc = s.pc := rfl
@[simp] theorem State.setT_gbr (s : State) (b : Bool) : (s.setT b).gbr = s.gbr := rfl
@[simp] theorem State.setT_vbr (s : State) (b : Bool) : (s.setT b).vbr = s.vbr := rfl
@[simp] theorem State.setT_mach (s : State) (b : Bool) : (s.setT b).mach = s.mach := rfl
@[simp] theorem State.setT_macl (s : State) (b : Bool) : (s.setT b).macl = s.macl := rfl
@[simp] theorem State.setT_pr (s : State) (b : Bool) : (s.setT b).pr = s.pr := rfl
@[simp] theorem State.setT_delaySlot (s : State) (b : Bool) : (s.setT b).delaySlot = s.delaySlot := rfl
@[simp] theorem State.setT_run (s : State) (b : Bool) : (s.setT b).run = s.run := rfl
@[simp] theorem State.setT_mem (s : State) (b : Bool) : (s.setT b).mem = s.mem := rfl
@[simp] theorem State.setT_cartLength (s : State) (b : Bool) : (s.setT b).cartLength = s.cartLength := rfl
@[simp] theorem State.setT_fbBank (s : State) (b : Bool) : (s.setT b).fbBank = s.fbBank := rfl
@[simp] theorem State.setT_intc (s : State) (b : Bool) : (s.setT b).intc = s.intc := rfl
@[simp] theorem State.setT_dma0 (s : State) (b : Bool) : (s.setT b).dma0 = s.dma0 := rfl
@[simp] theorem State.setT_dma1 (s : State) (b : Bool) : (s.setT b).dma1 = s.dma1 := rfl
@[simp] theorem State.setT_dmaor (s : State) (b : Bool) : (s.setT b).dmaor = s.dmaor := rfl
@[simp] theorem State.setT_divu (s : State) (b : Bool) : (s.setT b).divu = s.divu := rfl
@[simp] theorem State.setT_wdt (s : State) (b : Bool) : (s.setT b).wdt = s.wdt := rfl
@[simp] theorem State.setT_sbycr (s : State) (b : Bool) : (s.setT b).sbycr = s.sbycr := rfl
@[simp] theorem State.setT_ccr (s : State) (b : Bool) : (s.setT b).ccr = s.ccr := rfl
@[simp] theorem State.setT_draws (s : State) (b : Bool) : (s.setT b).draws = s.draws := rfl
@[simp] theorem State.setT_epoch (s : State) (b : Bool) : (s.setT b).epoch = s.epoch := rfl
@[simp] theorem State.setT_schedule (s : State) (b : Bool) : (s.setT b).schedule = s.schedule := rfl
@[simp] theorem State.setT_inside (s : State) (b : Bool) : (s.setT b).inside = s.inside := rfl
@[simp] theorem State.setT_stale (s : State) (b : Bool) : (s.setT b).stale = s.stale := rfl

@[simp] theorem State.setQ_params (s : State) (b : Bool) : (s.setQ b).params = s.params := rfl
@[simp] theorem State.setQ_regs (s : State) (b : Bool) : (s.setQ b).regs = s.regs := rfl
@[simp] theorem State.setQ_pc (s : State) (b : Bool) : (s.setQ b).pc = s.pc := rfl
@[simp] theorem State.setQ_gbr (s : State) (b : Bool) : (s.setQ b).gbr = s.gbr := rfl
@[simp] theorem State.setQ_vbr (s : State) (b : Bool) : (s.setQ b).vbr = s.vbr := rfl
@[simp] theorem State.setQ_mach (s : State) (b : Bool) : (s.setQ b).mach = s.mach := rfl
@[simp] theorem State.setQ_macl (s : State) (b : Bool) : (s.setQ b).macl = s.macl := rfl
@[simp] theorem State.setQ_pr (s : State) (b : Bool) : (s.setQ b).pr = s.pr := rfl
@[simp] theorem State.setQ_delaySlot (s : State) (b : Bool) : (s.setQ b).delaySlot = s.delaySlot := rfl
@[simp] theorem State.setQ_run (s : State) (b : Bool) : (s.setQ b).run = s.run := rfl
@[simp] theorem State.setQ_mem (s : State) (b : Bool) : (s.setQ b).mem = s.mem := rfl
@[simp] theorem State.setQ_cartLength (s : State) (b : Bool) : (s.setQ b).cartLength = s.cartLength := rfl
@[simp] theorem State.setQ_fbBank (s : State) (b : Bool) : (s.setQ b).fbBank = s.fbBank := rfl
@[simp] theorem State.setQ_intc (s : State) (b : Bool) : (s.setQ b).intc = s.intc := rfl
@[simp] theorem State.setQ_dma0 (s : State) (b : Bool) : (s.setQ b).dma0 = s.dma0 := rfl
@[simp] theorem State.setQ_dma1 (s : State) (b : Bool) : (s.setQ b).dma1 = s.dma1 := rfl
@[simp] theorem State.setQ_dmaor (s : State) (b : Bool) : (s.setQ b).dmaor = s.dmaor := rfl
@[simp] theorem State.setQ_divu (s : State) (b : Bool) : (s.setQ b).divu = s.divu := rfl
@[simp] theorem State.setQ_wdt (s : State) (b : Bool) : (s.setQ b).wdt = s.wdt := rfl
@[simp] theorem State.setQ_sbycr (s : State) (b : Bool) : (s.setQ b).sbycr = s.sbycr := rfl
@[simp] theorem State.setQ_ccr (s : State) (b : Bool) : (s.setQ b).ccr = s.ccr := rfl
@[simp] theorem State.setQ_draws (s : State) (b : Bool) : (s.setQ b).draws = s.draws := rfl
@[simp] theorem State.setQ_epoch (s : State) (b : Bool) : (s.setQ b).epoch = s.epoch := rfl
@[simp] theorem State.setQ_schedule (s : State) (b : Bool) : (s.setQ b).schedule = s.schedule := rfl
@[simp] theorem State.setQ_inside (s : State) (b : Bool) : (s.setQ b).inside = s.inside := rfl
@[simp] theorem State.setQ_stale (s : State) (b : Bool) : (s.setQ b).stale = s.stale := rfl

@[simp] theorem State.setM_params (s : State) (b : Bool) : (s.setM b).params = s.params := rfl
@[simp] theorem State.setM_regs (s : State) (b : Bool) : (s.setM b).regs = s.regs := rfl
@[simp] theorem State.setM_pc (s : State) (b : Bool) : (s.setM b).pc = s.pc := rfl
@[simp] theorem State.setM_gbr (s : State) (b : Bool) : (s.setM b).gbr = s.gbr := rfl
@[simp] theorem State.setM_vbr (s : State) (b : Bool) : (s.setM b).vbr = s.vbr := rfl
@[simp] theorem State.setM_mach (s : State) (b : Bool) : (s.setM b).mach = s.mach := rfl
@[simp] theorem State.setM_macl (s : State) (b : Bool) : (s.setM b).macl = s.macl := rfl
@[simp] theorem State.setM_pr (s : State) (b : Bool) : (s.setM b).pr = s.pr := rfl
@[simp] theorem State.setM_delaySlot (s : State) (b : Bool) : (s.setM b).delaySlot = s.delaySlot := rfl
@[simp] theorem State.setM_run (s : State) (b : Bool) : (s.setM b).run = s.run := rfl
@[simp] theorem State.setM_mem (s : State) (b : Bool) : (s.setM b).mem = s.mem := rfl
@[simp] theorem State.setM_cartLength (s : State) (b : Bool) : (s.setM b).cartLength = s.cartLength := rfl
@[simp] theorem State.setM_fbBank (s : State) (b : Bool) : (s.setM b).fbBank = s.fbBank := rfl
@[simp] theorem State.setM_intc (s : State) (b : Bool) : (s.setM b).intc = s.intc := rfl
@[simp] theorem State.setM_dma0 (s : State) (b : Bool) : (s.setM b).dma0 = s.dma0 := rfl
@[simp] theorem State.setM_dma1 (s : State) (b : Bool) : (s.setM b).dma1 = s.dma1 := rfl
@[simp] theorem State.setM_dmaor (s : State) (b : Bool) : (s.setM b).dmaor = s.dmaor := rfl
@[simp] theorem State.setM_divu (s : State) (b : Bool) : (s.setM b).divu = s.divu := rfl
@[simp] theorem State.setM_wdt (s : State) (b : Bool) : (s.setM b).wdt = s.wdt := rfl
@[simp] theorem State.setM_sbycr (s : State) (b : Bool) : (s.setM b).sbycr = s.sbycr := rfl
@[simp] theorem State.setM_ccr (s : State) (b : Bool) : (s.setM b).ccr = s.ccr := rfl
@[simp] theorem State.setM_draws (s : State) (b : Bool) : (s.setM b).draws = s.draws := rfl
@[simp] theorem State.setM_epoch (s : State) (b : Bool) : (s.setM b).epoch = s.epoch := rfl
@[simp] theorem State.setM_schedule (s : State) (b : Bool) : (s.setM b).schedule = s.schedule := rfl
@[simp] theorem State.setM_inside (s : State) (b : Bool) : (s.setM b).inside = s.inside := rfl
@[simp] theorem State.setM_stale (s : State) (b : Bool) : (s.setM b).stale = s.stale := rfl

@[simp] theorem State.setImask_params (s : State) (v : BitVec 4) : (s.setImask v).params = s.params := rfl
@[simp] theorem State.setImask_regs (s : State) (v : BitVec 4) : (s.setImask v).regs = s.regs := rfl
@[simp] theorem State.setImask_pc (s : State) (v : BitVec 4) : (s.setImask v).pc = s.pc := rfl
@[simp] theorem State.setImask_gbr (s : State) (v : BitVec 4) : (s.setImask v).gbr = s.gbr := rfl
@[simp] theorem State.setImask_vbr (s : State) (v : BitVec 4) : (s.setImask v).vbr = s.vbr := rfl
@[simp] theorem State.setImask_mach (s : State) (v : BitVec 4) : (s.setImask v).mach = s.mach := rfl
@[simp] theorem State.setImask_macl (s : State) (v : BitVec 4) : (s.setImask v).macl = s.macl := rfl
@[simp] theorem State.setImask_pr (s : State) (v : BitVec 4) : (s.setImask v).pr = s.pr := rfl
@[simp] theorem State.setImask_delaySlot (s : State) (v : BitVec 4) : (s.setImask v).delaySlot = s.delaySlot := rfl
@[simp] theorem State.setImask_run (s : State) (v : BitVec 4) : (s.setImask v).run = s.run := rfl
@[simp] theorem State.setImask_mem (s : State) (v : BitVec 4) : (s.setImask v).mem = s.mem := rfl
@[simp] theorem State.setImask_cartLength (s : State) (v : BitVec 4) : (s.setImask v).cartLength = s.cartLength := rfl
@[simp] theorem State.setImask_fbBank (s : State) (v : BitVec 4) : (s.setImask v).fbBank = s.fbBank := rfl
@[simp] theorem State.setImask_intc (s : State) (v : BitVec 4) : (s.setImask v).intc = s.intc := rfl
@[simp] theorem State.setImask_dma0 (s : State) (v : BitVec 4) : (s.setImask v).dma0 = s.dma0 := rfl
@[simp] theorem State.setImask_dma1 (s : State) (v : BitVec 4) : (s.setImask v).dma1 = s.dma1 := rfl
@[simp] theorem State.setImask_dmaor (s : State) (v : BitVec 4) : (s.setImask v).dmaor = s.dmaor := rfl
@[simp] theorem State.setImask_divu (s : State) (v : BitVec 4) : (s.setImask v).divu = s.divu := rfl
@[simp] theorem State.setImask_wdt (s : State) (v : BitVec 4) : (s.setImask v).wdt = s.wdt := rfl
@[simp] theorem State.setImask_sbycr (s : State) (v : BitVec 4) : (s.setImask v).sbycr = s.sbycr := rfl
@[simp] theorem State.setImask_ccr (s : State) (v : BitVec 4) : (s.setImask v).ccr = s.ccr := rfl
@[simp] theorem State.setImask_draws (s : State) (v : BitVec 4) : (s.setImask v).draws = s.draws := rfl
@[simp] theorem State.setImask_epoch (s : State) (v : BitVec 4) : (s.setImask v).epoch = s.epoch := rfl
@[simp] theorem State.setImask_schedule (s : State) (v : BitVec 4) : (s.setImask v).schedule = s.schedule := rfl
@[simp] theorem State.setImask_inside (s : State) (v : BitVec 4) : (s.setImask v).inside = s.inside := rfl
@[simp] theorem State.setImask_stale (s : State) (v : BitVec 4) : (s.setImask v).stale = s.stale := rfl

@[simp] theorem State.setMac_params (s : State) (v : BitVec 64) : (s.setMac v).params = s.params := rfl
@[simp] theorem State.setMac_regs (s : State) (v : BitVec 64) : (s.setMac v).regs = s.regs := rfl
@[simp] theorem State.setMac_pc (s : State) (v : BitVec 64) : (s.setMac v).pc = s.pc := rfl
@[simp] theorem State.setMac_sr (s : State) (v : BitVec 64) : (s.setMac v).sr = s.sr := rfl
@[simp] theorem State.setMac_gbr (s : State) (v : BitVec 64) : (s.setMac v).gbr = s.gbr := rfl
@[simp] theorem State.setMac_vbr (s : State) (v : BitVec 64) : (s.setMac v).vbr = s.vbr := rfl
@[simp] theorem State.setMac_pr (s : State) (v : BitVec 64) : (s.setMac v).pr = s.pr := rfl
@[simp] theorem State.setMac_delaySlot (s : State) (v : BitVec 64) : (s.setMac v).delaySlot = s.delaySlot := rfl
@[simp] theorem State.setMac_run (s : State) (v : BitVec 64) : (s.setMac v).run = s.run := rfl
@[simp] theorem State.setMac_mem (s : State) (v : BitVec 64) : (s.setMac v).mem = s.mem := rfl
@[simp] theorem State.setMac_cartLength (s : State) (v : BitVec 64) : (s.setMac v).cartLength = s.cartLength := rfl
@[simp] theorem State.setMac_fbBank (s : State) (v : BitVec 64) : (s.setMac v).fbBank = s.fbBank := rfl
@[simp] theorem State.setMac_intc (s : State) (v : BitVec 64) : (s.setMac v).intc = s.intc := rfl
@[simp] theorem State.setMac_dma0 (s : State) (v : BitVec 64) : (s.setMac v).dma0 = s.dma0 := rfl
@[simp] theorem State.setMac_dma1 (s : State) (v : BitVec 64) : (s.setMac v).dma1 = s.dma1 := rfl
@[simp] theorem State.setMac_dmaor (s : State) (v : BitVec 64) : (s.setMac v).dmaor = s.dmaor := rfl
@[simp] theorem State.setMac_divu (s : State) (v : BitVec 64) : (s.setMac v).divu = s.divu := rfl
@[simp] theorem State.setMac_wdt (s : State) (v : BitVec 64) : (s.setMac v).wdt = s.wdt := rfl
@[simp] theorem State.setMac_sbycr (s : State) (v : BitVec 64) : (s.setMac v).sbycr = s.sbycr := rfl
@[simp] theorem State.setMac_ccr (s : State) (v : BitVec 64) : (s.setMac v).ccr = s.ccr := rfl
@[simp] theorem State.setMac_draws (s : State) (v : BitVec 64) : (s.setMac v).draws = s.draws := rfl
@[simp] theorem State.setMac_epoch (s : State) (v : BitVec 64) : (s.setMac v).epoch = s.epoch := rfl
@[simp] theorem State.setMac_schedule (s : State) (v : BitVec 64) : (s.setMac v).schedule = s.schedule := rfl
@[simp] theorem State.setMac_inside (s : State) (v : BitVec 64) : (s.setMac v).inside = s.inside := rfl
@[simp] theorem State.setMac_stale (s : State) (v : BitVec 64) : (s.setMac v).stale = s.stale := rfl

@[simp] theorem State.setPending_params (s : State) (src : Source) (b : Bool) : (s.setPending src b).params = s.params := rfl
@[simp] theorem State.setPending_regs (s : State) (src : Source) (b : Bool) : (s.setPending src b).regs = s.regs := rfl
@[simp] theorem State.setPending_pc (s : State) (src : Source) (b : Bool) : (s.setPending src b).pc = s.pc := rfl
@[simp] theorem State.setPending_sr (s : State) (src : Source) (b : Bool) : (s.setPending src b).sr = s.sr := rfl
@[simp] theorem State.setPending_gbr (s : State) (src : Source) (b : Bool) : (s.setPending src b).gbr = s.gbr := rfl
@[simp] theorem State.setPending_vbr (s : State) (src : Source) (b : Bool) : (s.setPending src b).vbr = s.vbr := rfl
@[simp] theorem State.setPending_mach (s : State) (src : Source) (b : Bool) : (s.setPending src b).mach = s.mach := rfl
@[simp] theorem State.setPending_macl (s : State) (src : Source) (b : Bool) : (s.setPending src b).macl = s.macl := rfl
@[simp] theorem State.setPending_pr (s : State) (src : Source) (b : Bool) : (s.setPending src b).pr = s.pr := rfl
@[simp] theorem State.setPending_delaySlot (s : State) (src : Source) (b : Bool) : (s.setPending src b).delaySlot = s.delaySlot := rfl
@[simp] theorem State.setPending_run (s : State) (src : Source) (b : Bool) : (s.setPending src b).run = s.run := rfl
@[simp] theorem State.setPending_mem (s : State) (src : Source) (b : Bool) : (s.setPending src b).mem = s.mem := rfl
@[simp] theorem State.setPending_cartLength (s : State) (src : Source) (b : Bool) : (s.setPending src b).cartLength = s.cartLength := rfl
@[simp] theorem State.setPending_fbBank (s : State) (src : Source) (b : Bool) : (s.setPending src b).fbBank = s.fbBank := rfl
@[simp] theorem State.setPending_dma0 (s : State) (src : Source) (b : Bool) : (s.setPending src b).dma0 = s.dma0 := rfl
@[simp] theorem State.setPending_dma1 (s : State) (src : Source) (b : Bool) : (s.setPending src b).dma1 = s.dma1 := rfl
@[simp] theorem State.setPending_dmaor (s : State) (src : Source) (b : Bool) : (s.setPending src b).dmaor = s.dmaor := rfl
@[simp] theorem State.setPending_divu (s : State) (src : Source) (b : Bool) : (s.setPending src b).divu = s.divu := rfl
@[simp] theorem State.setPending_wdt (s : State) (src : Source) (b : Bool) : (s.setPending src b).wdt = s.wdt := rfl
@[simp] theorem State.setPending_sbycr (s : State) (src : Source) (b : Bool) : (s.setPending src b).sbycr = s.sbycr := rfl
@[simp] theorem State.setPending_ccr (s : State) (src : Source) (b : Bool) : (s.setPending src b).ccr = s.ccr := rfl
@[simp] theorem State.setPending_draws (s : State) (src : Source) (b : Bool) : (s.setPending src b).draws = s.draws := rfl
@[simp] theorem State.setPending_epoch (s : State) (src : Source) (b : Bool) : (s.setPending src b).epoch = s.epoch := rfl
@[simp] theorem State.setPending_schedule (s : State) (src : Source) (b : Bool) : (s.setPending src b).schedule = s.schedule := rfl
@[simp] theorem State.setPending_inside (s : State) (src : Source) (b : Bool) : (s.setPending src b).inside = s.inside := rfl
@[simp] theorem State.setPending_stale (s : State) (src : Source) (b : Bool) : (s.setPending src b).stale = s.stale := rfl

@[simp] theorem State.writeCells_params (s : State) (cs : List Host.Cell) : (s.writeCells cs).params = s.params := rfl
@[simp] theorem State.writeCells_regs (s : State) (cs : List Host.Cell) : (s.writeCells cs).regs = s.regs := rfl
@[simp] theorem State.writeCells_pc (s : State) (cs : List Host.Cell) : (s.writeCells cs).pc = s.pc := rfl
@[simp] theorem State.writeCells_sr (s : State) (cs : List Host.Cell) : (s.writeCells cs).sr = s.sr := rfl
@[simp] theorem State.writeCells_gbr (s : State) (cs : List Host.Cell) : (s.writeCells cs).gbr = s.gbr := rfl
@[simp] theorem State.writeCells_vbr (s : State) (cs : List Host.Cell) : (s.writeCells cs).vbr = s.vbr := rfl
@[simp] theorem State.writeCells_mach (s : State) (cs : List Host.Cell) : (s.writeCells cs).mach = s.mach := rfl
@[simp] theorem State.writeCells_macl (s : State) (cs : List Host.Cell) : (s.writeCells cs).macl = s.macl := rfl
@[simp] theorem State.writeCells_pr (s : State) (cs : List Host.Cell) : (s.writeCells cs).pr = s.pr := rfl
@[simp] theorem State.writeCells_delaySlot (s : State) (cs : List Host.Cell) : (s.writeCells cs).delaySlot = s.delaySlot := rfl
@[simp] theorem State.writeCells_run (s : State) (cs : List Host.Cell) : (s.writeCells cs).run = s.run := rfl
@[simp] theorem State.writeCells_cartLength (s : State) (cs : List Host.Cell) : (s.writeCells cs).cartLength = s.cartLength := rfl
@[simp] theorem State.writeCells_fbBank (s : State) (cs : List Host.Cell) : (s.writeCells cs).fbBank = s.fbBank := rfl
@[simp] theorem State.writeCells_intc (s : State) (cs : List Host.Cell) : (s.writeCells cs).intc = s.intc := rfl
@[simp] theorem State.writeCells_dma0 (s : State) (cs : List Host.Cell) : (s.writeCells cs).dma0 = s.dma0 := rfl
@[simp] theorem State.writeCells_dma1 (s : State) (cs : List Host.Cell) : (s.writeCells cs).dma1 = s.dma1 := rfl
@[simp] theorem State.writeCells_dmaor (s : State) (cs : List Host.Cell) : (s.writeCells cs).dmaor = s.dmaor := rfl
@[simp] theorem State.writeCells_divu (s : State) (cs : List Host.Cell) : (s.writeCells cs).divu = s.divu := rfl
@[simp] theorem State.writeCells_wdt (s : State) (cs : List Host.Cell) : (s.writeCells cs).wdt = s.wdt := rfl
@[simp] theorem State.writeCells_sbycr (s : State) (cs : List Host.Cell) : (s.writeCells cs).sbycr = s.sbycr := rfl
@[simp] theorem State.writeCells_ccr (s : State) (cs : List Host.Cell) : (s.writeCells cs).ccr = s.ccr := rfl
@[simp] theorem State.writeCells_draws (s : State) (cs : List Host.Cell) : (s.writeCells cs).draws = s.draws := rfl
@[simp] theorem State.writeCells_epoch (s : State) (cs : List Host.Cell) : (s.writeCells cs).epoch = s.epoch := rfl
@[simp] theorem State.writeCells_schedule (s : State) (cs : List Host.Cell) : (s.writeCells cs).schedule = s.schedule := rfl
@[simp] theorem State.writeCells_inside (s : State) (cs : List Host.Cell) : (s.writeCells cs).inside = s.inside := rfl
@[simp] theorem State.writeCells_stale (s : State) (cs : List Host.Cell) : (s.writeCells cs).stale = s.stale := rfl

@[simp] theorem State.setChan_params (s : State) (c : Channel) (d : DmaChannel) : (s.setChan c d).params = s.params := by cases c <;> rfl
@[simp] theorem State.setChan_regs (s : State) (c : Channel) (d : DmaChannel) : (s.setChan c d).regs = s.regs := by cases c <;> rfl
@[simp] theorem State.setChan_pc (s : State) (c : Channel) (d : DmaChannel) : (s.setChan c d).pc = s.pc := by cases c <;> rfl
@[simp] theorem State.setChan_sr (s : State) (c : Channel) (d : DmaChannel) : (s.setChan c d).sr = s.sr := by cases c <;> rfl
@[simp] theorem State.setChan_gbr (s : State) (c : Channel) (d : DmaChannel) : (s.setChan c d).gbr = s.gbr := by cases c <;> rfl
@[simp] theorem State.setChan_vbr (s : State) (c : Channel) (d : DmaChannel) : (s.setChan c d).vbr = s.vbr := by cases c <;> rfl
@[simp] theorem State.setChan_mach (s : State) (c : Channel) (d : DmaChannel) : (s.setChan c d).mach = s.mach := by cases c <;> rfl
@[simp] theorem State.setChan_macl (s : State) (c : Channel) (d : DmaChannel) : (s.setChan c d).macl = s.macl := by cases c <;> rfl
@[simp] theorem State.setChan_pr (s : State) (c : Channel) (d : DmaChannel) : (s.setChan c d).pr = s.pr := by cases c <;> rfl
@[simp] theorem State.setChan_delaySlot (s : State) (c : Channel) (d : DmaChannel) : (s.setChan c d).delaySlot = s.delaySlot := by cases c <;> rfl
@[simp] theorem State.setChan_run (s : State) (c : Channel) (d : DmaChannel) : (s.setChan c d).run = s.run := by cases c <;> rfl
@[simp] theorem State.setChan_mem (s : State) (c : Channel) (d : DmaChannel) : (s.setChan c d).mem = s.mem := by cases c <;> rfl
@[simp] theorem State.setChan_cartLength (s : State) (c : Channel) (d : DmaChannel) : (s.setChan c d).cartLength = s.cartLength := by cases c <;> rfl
@[simp] theorem State.setChan_fbBank (s : State) (c : Channel) (d : DmaChannel) : (s.setChan c d).fbBank = s.fbBank := by cases c <;> rfl
@[simp] theorem State.setChan_intc (s : State) (c : Channel) (d : DmaChannel) : (s.setChan c d).intc = s.intc := by cases c <;> rfl
@[simp] theorem State.setChan_dmaor (s : State) (c : Channel) (d : DmaChannel) : (s.setChan c d).dmaor = s.dmaor := by cases c <;> rfl
@[simp] theorem State.setChan_divu (s : State) (c : Channel) (d : DmaChannel) : (s.setChan c d).divu = s.divu := by cases c <;> rfl
@[simp] theorem State.setChan_wdt (s : State) (c : Channel) (d : DmaChannel) : (s.setChan c d).wdt = s.wdt := by cases c <;> rfl
@[simp] theorem State.setChan_sbycr (s : State) (c : Channel) (d : DmaChannel) : (s.setChan c d).sbycr = s.sbycr := by cases c <;> rfl
@[simp] theorem State.setChan_ccr (s : State) (c : Channel) (d : DmaChannel) : (s.setChan c d).ccr = s.ccr := by cases c <;> rfl
@[simp] theorem State.setChan_draws (s : State) (c : Channel) (d : DmaChannel) : (s.setChan c d).draws = s.draws := by cases c <;> rfl
@[simp] theorem State.setChan_epoch (s : State) (c : Channel) (d : DmaChannel) : (s.setChan c d).epoch = s.epoch := by cases c <;> rfl
@[simp] theorem State.setChan_schedule (s : State) (c : Channel) (d : DmaChannel) : (s.setChan c d).schedule = s.schedule := by cases c <;> rfl
@[simp] theorem State.setChan_inside (s : State) (c : Channel) (d : DmaChannel) : (s.setChan c d).inside = s.inside := by cases c <;> rfl
@[simp] theorem State.setChan_stale (s : State) (c : Channel) (d : DmaChannel) : (s.setChan c d).stale = s.stale := by cases c <;> rfl

@[simp] theorem State.advance_pc (s : State) : s.advance.pc = s.pc + 2 := rfl
@[simp] theorem State.setSr_sr (s : State) (v : Word) : (s.setSr v).sr = v &&& srMask := rfl
@[simp] theorem State.setT_sr (s : State) (b : Bool) : (s.setT b).sr = withBit s.sr 0 b := rfl
@[simp] theorem State.setQ_sr (s : State) (b : Bool) : (s.setQ b).sr = withBit s.sr 8 b := rfl
@[simp] theorem State.setM_sr (s : State) (b : Bool) : (s.setM b).sr = withBit s.sr 9 b := rfl
@[simp] theorem State.setMac_mach (s : State) (v : BitVec 64) : (s.setMac v).mach = v.extractLsb' 32 32 := rfl
@[simp] theorem State.setMac_macl (s : State) (v : BitVec 64) : (s.setMac v).macl = v.extractLsb' 0 32 := rfl
@[simp] theorem State.writeCells_mem (s : State) (cs : List Host.Cell) : (s.writeCells cs).mem = s.mem.setCells cs := rfl

/-- A register write is seen at its own number only. -/
theorem State.reg_setReg (s : State) (i k : Reg) (v : Word) :
    (s.setReg i v).reg k = if k = i then v else s.reg k := by
  simp only [State.reg, State.setReg, Vector.getElem_set]
  by_cases h : k = i
  · simp [h]
  · have : ¬ i.val = k.val := fun e => h (Fin.ext e.symm)
    simp [h, this]

@[simp] theorem State.reg_setReg_self (s : State) (i : Reg) (v : Word) : (s.setReg i v).reg i = v := by
  simp [State.reg_setReg]

theorem State.reg_setReg_ne (s : State) {i k : Reg} (h : k ≠ i) (v : Word) : (s.setReg i v).reg k = s.reg k := by
  simp [State.reg_setReg, h]

@[simp] theorem State.advance_reg (s : State) (k : Reg) : s.advance.reg k = s.reg k := rfl
@[simp] theorem State.advance_heldByte (s : State) (a : Nat) : s.advance.heldByte a = s.heldByte a := rfl
@[simp] theorem State.setSr_reg (s : State) (k : Reg) (v : Word) : (s.setSr v).reg k = s.reg k := rfl
@[simp] theorem State.setSr_heldByte (s : State) (a : Nat) (v : Word) : (s.setSr v).heldByte a = s.heldByte a := rfl
@[simp] theorem State.setT_reg (s : State) (k : Reg) (b : Bool) : (s.setT b).reg k = s.reg k := rfl
@[simp] theorem State.setT_heldByte (s : State) (a : Nat) (b : Bool) : (s.setT b).heldByte a = s.heldByte a := rfl
@[simp] theorem State.setQ_reg (s : State) (k : Reg) (b : Bool) : (s.setQ b).reg k = s.reg k := rfl
@[simp] theorem State.setQ_heldByte (s : State) (a : Nat) (b : Bool) : (s.setQ b).heldByte a = s.heldByte a := rfl
@[simp] theorem State.setM_reg (s : State) (k : Reg) (b : Bool) : (s.setM b).reg k = s.reg k := rfl
@[simp] theorem State.setM_heldByte (s : State) (a : Nat) (b : Bool) : (s.setM b).heldByte a = s.heldByte a := rfl
@[simp] theorem State.setImask_reg (s : State) (k : Reg) (v : BitVec 4) : (s.setImask v).reg k = s.reg k := rfl
@[simp] theorem State.setImask_heldByte (s : State) (a : Nat) (v : BitVec 4) : (s.setImask v).heldByte a = s.heldByte a := rfl
@[simp] theorem State.setMac_reg (s : State) (k : Reg) (v : BitVec 64) : (s.setMac v).reg k = s.reg k := rfl
@[simp] theorem State.setMac_heldByte (s : State) (a : Nat) (v : BitVec 64) : (s.setMac v).heldByte a = s.heldByte a := rfl
@[simp] theorem State.setPending_reg (s : State) (k : Reg) (src : Source) (b : Bool) : (s.setPending src b).reg k = s.reg k := rfl
@[simp] theorem State.setPending_heldByte (s : State) (a : Nat) (src : Source) (b : Bool) : (s.setPending src b).heldByte a = s.heldByte a := rfl
@[simp] theorem State.writeCells_reg (s : State) (k : Reg) (cs : List Host.Cell) : (s.writeCells cs).reg k = s.reg k := rfl
@[simp] theorem State.setChan_reg (s : State) (k : Reg) (c : Channel) (d : DmaChannel) : (s.setChan c d).reg k = s.reg k := by cases c <;> rfl
@[simp] theorem State.setChan_heldByte (s : State) (a : Nat) (c : Channel) (d : DmaChannel) : (s.setChan c d).heldByte a = s.heldByte a := by cases c <;> rfl
@[simp] theorem State.setReg_heldByte (s : State) (a : Nat) (i : Reg) (v : Word) : (s.setReg i v).heldByte a = s.heldByte a := rfl

@[simp] theorem State.chan_setChan_self (s : State) (c : Channel) (d : DmaChannel) : (s.setChan c d).chan c = d := by
  cases c <;> rfl

/-- The two channels share nothing but `DMAOR` (R455). -/
theorem State.chan_setChan_ne (s : State) {c k : Channel} (h : k ≠ c) (d : DmaChannel) :
    (s.setChan c d).chan k = s.chan k := by
  cases c <;> cases k <;> first | rfl | exact absurd rfl h

/-- Setting a bit and reading another. -/
theorem withBit_getLsbD {w : Nat} (v : BitVec w) (i k : Nat) (b : Bool) :
    (withBit v i b).getLsbD k = if k = i ∧ k < w then b else v.getLsbD k := by
  unfold withBit
  by_cases hk : k < w
  · by_cases h : k = i
    · subst h
      cases b <;> simp [hk]
    · cases b <;> simp [hk, h]
  · have hv : v.getLsbD k = false := BitVec.getLsbD_of_ge _ _ (Nat.le_of_not_lt hk)
    cases b <;> simp [hk, hv]
    intro hi e
    omega

end Sys2Proof.Machine
end

