-- ==== Sys2Proof/Laws/Access.lean ====
section
/-! SUPPORT. What a read and a write of memory can do: one lemma for each of the shared accesses, which later proofs cite
instead of unfolding the decoder. -/

namespace Sys2Proof.Machine

/-- A read of a controller's register takes at most a draw. -/
theorem State.readRegister_frame (s : State) (r : OnChipReg) :
    (s.readRegister r).2 = { s with draws := (s.readRegister r).2.draws } := by
  cases r <;> rfl

/-- A refused read changes nothing. -/
theorem State.refusedRead_frame {s t : State} {kind : AccessKind} {ag : Agent} {sz : Size} {addr v : Word}
    (h : s.refusedRead kind ag sz addr = .ok (v, t)) : t = s := by
  unfold State.refusedRead at h
  split at h
  · cases h
  · simp only [Except.ok.injEq, Prod.mk.injEq] at h
    exact h.2.symm

/-- A refused write changes nothing. -/
theorem State.refusedWrite_frame {s t : State} {kind : AccessKind} {ag : Agent} {sz : Size} {addr : Word}
    (h : s.refusedWrite kind ag sz addr = .ok t) : t = s := by
  unfold State.refusedWrite at h
  split at h
  · cases h
  · simpa using h.symm

/-- A read of the on-chip block takes at most a draw. -/
theorem State.onChipRead_frame {s t : State} {sz : Size} {addr v : Word} {off : Nat}
    (h : s.onChipRead sz addr off = .ok (v, t)) : t = { s with draws := t.draws } := by
  unfold State.onChipRead at h
  split at h
  · rename_i r _
    have := s.readRegister_frame r
    simp only [Except.ok.injEq] at h
    rw [h] at this
    exact this
  · split at h
    · rw [State.refusedRead_frame h]
    · simp only [Except.ok.injEq, Prod.mk.injEq] at h
      rw [← h.2]
      split <;> rfl

/-- A read changes nothing but the count of draws, whether it may see earlier values or not. -/
theorem memReadVia_frame {cached : Bool} {ag : Agent} {sz : Size} {addr v : Word} {s t : State}
    (h : memReadVia cached ag sz addr s = .ok (v, t)) : t = { s with draws := t.draws } := by
  unfold memReadVia at h
  split at h
  · split at h
    · exact State.onChipRead_frame h
    · simp only [Except.ok.injEq, Prod.mk.injEq] at h
      rw [← h.2]
      split <;> rfl
    all_goals rw [State.refusedRead_frame h]
  · cases h

/-- A read changes nothing but the count of draws. -/
theorem memRead_frame {ag : Agent} {sz : Size} {addr v : Word} {s t : State}
    (h : memRead ag sz addr s = .ok (v, t)) : t = { s with draws := t.draws } := memReadVia_frame h

/-- A read succeeds at an aligned address only (R64). -/
theorem memReadVia_aligned {cached : Bool} {ag : Agent} {sz : Size} {addr v : Word} {s t : State}
    (h : memReadVia cached ag sz addr s = .ok (v, t)) : aligned sz addr = true := by
  unfold memReadVia at h
  split at h
  · assumption
  · cases h

theorem memRead_aligned {ag : Agent} {sz : Size} {addr v : Word} {s t : State}
    (h : memRead ag sz addr s = .ok (v, t)) : aligned sz addr = true := memReadVia_aligned h

/-- Without the stale model every read reaches the store itself. -/
theorem memRead_transparent {s : State} (h : s.params.cacheModel = .transparent) (sz : Size) (addr : Word) :
    memRead .core sz addr s = memReadUncached sz addr s := by
  unfold memRead memReadUncached seesEarlier
  rw [h]
  rfl

/-- The controllers and the stores: all that a write may change. -/
def SameCore (s t : State) : Prop :=
  t = { s with
    mem := t.mem, stale := t.stale, intc := t.intc, dma0 := t.dma0, dma1 := t.dma1, dmaor := t.dmaor, divu := t.divu, wdt := t.wdt,
    sbycr := t.sbycr, ccr := t.ccr, draws := t.draws }

theorem SameCore.refl (s : State) : SameCore s s := rfl

theorem SameCore.setChan (s : State) (c : Channel) (d : DmaChannel) : SameCore s (s.setChan c d) := by
  cases c <;> rfl

theorem State.divide_frame (s : State) (a b : Int) :
    s.divide a b = { s with divu := (s.divide a b).divu, draws := (s.divide a b).draws } := by
  unfold State.divide
  split <;> rfl

/-- A write of a controller's register changes no register of the core and no byte. -/
theorem State.writeRegister_frame (s : State) (r : OnChipReg) (v : Word) :
    SameCore s (s.writeRegister r v) ∧ (s.writeRegister r v).mem = s.mem := by
  cases r
  case dvdnt => exact ⟨by unfold SameCore State.writeRegister State.divide32; rw [State.divide_frame], by
    unfold State.writeRegister State.divide32; rw [State.divide_frame]⟩
  case dvdntl => exact ⟨by unfold SameCore State.writeRegister State.divide64; rw [State.divide_frame], by
    unfold State.writeRegister State.divide64; rw [State.divide_frame]⟩
  case drcr c => exact ⟨SameCore.setChan s c _, State.setChan_mem s c _⟩
  case sar c => exact ⟨SameCore.setChan s c _, State.setChan_mem s c _⟩
  case dar c => exact ⟨SameCore.setChan s c _, State.setChan_mem s c _⟩
  case tcr c => exact ⟨SameCore.setChan s c _, State.setChan_mem s c _⟩
  case chcr c => exact ⟨SameCore.setChan s c _, State.setChan_mem s c _⟩
  case vcrdma c => exact ⟨SameCore.setChan s c _, State.setChan_mem s c _⟩
  all_goals exact ⟨rfl, rfl⟩

/-- A write of the system registers changes at most the mask register, its earlier values or a pending bit (R443, R446). -/
theorem State.systemWrite_frame (s : State) (ag : Agent) (f : Bool) (sz : Size) (off : Nat) (v : Word) :
    s.systemWrite ag f sz off v =
      { s with intc := (s.systemWrite ag f sz off v).intc, stale := (s.systemWrite ag f sz off v).stale } := by
  unfold State.systemWrite
  split
  · simp only []
    rw [State.keepEarlier_frame]
  · split
    · split <;> rfl
    · rfl

theorem State.purgeBytes_frame (r : Region) (n : Nat) : ∀ (s : State) (off : Nat),
    s.purgeBytes r off n = { s with stale := (s.purgeBytes r off n).stale } := by
  induction n with
  | zero => exact fun _ _ => rfl
  | succ n ih =>
    intro s off
    unfold State.purgeBytes
    split
    · rw [ih]; rfl
    · exact ih s (off + 1)

/-- A write to the purge alias changes the list of earlier values alone (R82, R98). -/
theorem State.purgeWrite_frame (s : State) (ag : Agent) (sz : Size) (addr : Word) :
    s.purgeWrite ag sz addr = { s with stale := (s.purgeWrite ag sz addr).stale } := by
  unfold State.purgeWrite
  split
  · split
    · exact State.purgeBytes_frame _ _ _ _
    · rfl
  · rfl

/-- Without the stale model a purge changes nothing (R82). -/
theorem State.purgeWrite_transparent {s : State} (h : s.params.cacheModel = .transparent) (ag : Agent) (sz : Size)
    (addr : Word) : s.purgeWrite ag sz addr = s := by
  unfold State.purgeWrite; rw [h]

/-- What a successful write is: refused by the clamp, discarded by the purge alias, a write of a controller's register, or a
write of bytes. -/
theorem memWrite_cases {ag : Agent} {sz : Size} {addr v : Word} {s t : State}
    (h : memWrite ag sz addr v s = .ok t) :
    aligned sz addr = true ∧
    (t = s ∨
     (decodeAddress s.params ag addr sz .write = .purge ∧ t = s.purgeWrite ag sz addr) ∨
     (∃ off, decodeAddress s.params ag addr sz .write = .onChip off ∧ touchesWdtPorts off sz = true ∧
        t = { s with wdt := s.wdt.writePort off sz v }) ∨
     (∃ off r, decodeAddress s.params ag addr sz .write = .onChip off ∧ registerAt off sz = some r ∧
        t = s.writeRegister r v) ∨
     (∃ off, decodeAddress s.params ag addr sz .write = .onChip off ∧ touchesRegister off sz = false ∧
        t = s.writeCells (cellsAt (Config.onChipStore + off) (beBytes sz v))) ∨
     (∃ off, decodeAddress s.params ag addr sz .write = .region .system off ∧
        t = s.systemWrite ag (aroundCache ag addr) sz off v) ∨
     (∃ r off, decodeAddress s.params ag addr sz .write = .region r off ∧ r ≠ .system ∧
        t = s.storeCells (aroundCache ag addr) (writtenCells r sz off v))) := by
  unfold memWrite at h
  split at h
  · rename_i hal
    refine ⟨hal, ?_⟩
    split at h
    · rename_i off hd
      unfold State.onChipWrite at h
      split at h
      · rename_i hw
        exact .inr (.inr (.inl ⟨off, hd, hw, by simpa using h.symm⟩))
      · split at h
        · rename_i r hr
          exact .inr (.inr (.inr (.inl ⟨off, r, hd, hr, by simpa using h.symm⟩)))
        · split at h
          · exact .inl (State.refusedWrite_frame h)
          · rename_i ht
            exact .inr (.inr (.inr (.inr (.inl ⟨off, hd, by simpa using ht, by simpa using h.symm⟩))))
    · rename_i r off hd
      have ht : t = s.regionWrite ag (aroundCache ag addr) r sz off v := by simpa using h.symm
      by_cases hr : r = .system
      · subst hr
        exact .inr (.inr (.inr (.inr (.inr (.inl ⟨off, hd, ht⟩)))))
      · refine .inr (.inr (.inr (.inr (.inr (.inr ⟨r, off, hd, hr, ?_⟩)))))
        rw [ht]
        cases r <;> first | rfl | exact absurd rfl hr
    · rename_i hd
      exact .inr (.inl ⟨hd, by simpa using h.symm⟩)
    · exact .inl (State.refusedWrite_frame h)
    · exact .inl (State.refusedWrite_frame h)
  · cases h

/-- A write changes no register of the core, no parameter, no event. -/
theorem memWrite_sameCore {ag : Agent} {sz : Size} {addr v : Word} {s t : State}
    (h : memWrite ag sz addr v s = .ok t) : SameCore s t := by
  obtain ⟨-, rfl | ⟨-, rfl⟩ | ⟨off, -, -, rfl⟩ | ⟨off, r, -, -, rfl⟩ | ⟨off, -, -, rfl⟩ | ⟨off, -, rfl⟩ |
    ⟨r, off, -, -, rfl⟩⟩ := memWrite_cases h
  · rfl
  · rw [State.purgeWrite_frame]; rfl
  · rfl
  · exact (s.writeRegister_frame r v).1
  · rfl
  · rw [State.systemWrite_frame]; rfl
  · rw [State.storeCells_eq]; rfl

/-- A write keeps the canonical form of memory. -/
theorem memWrite_wf {ag : Agent} {sz : Size} {addr v : Word} {s t : State}
    (hwf : s.mem.wf = true) (h : memWrite ag sz addr v s = .ok t) : t.mem.wf = true := by
  obtain ⟨-, rfl | ⟨-, rfl⟩ | ⟨off, -, -, rfl⟩ | ⟨off, r, -, -, rfl⟩ | ⟨off, -, -, rfl⟩ | ⟨off, -, rfl⟩ |
    ⟨r, off, -, -, rfl⟩⟩ := memWrite_cases h
  · exact hwf
  · rw [State.purgeWrite_frame]; exact hwf
  · exact hwf
  · rw [(s.writeRegister_frame r v).2]; exact hwf
  · exact State.wf_writeCells hwf _
  · rw [State.systemWrite_frame]; exact hwf
  · rw [State.storeCells_eq]; exact State.wf_writeCells hwf _

/-- A read keeps the canonical form of memory. -/
theorem memRead_wf {ag : Agent} {sz : Size} {addr v : Word} {s t : State}
    (hwf : s.mem.wf = true) (h : memRead ag sz addr s = .ok (v, t)) : t.mem.wf = true := by
  rw [memRead_frame h]; exact hwf

/-- The cells a write to a region stores lie at the bytes of the access. -/
theorem writtenCells_addresses (r : Region) (sz : Size) (off : Nat) (v : Word) (a : Nat)
    (h : a ∈ (writtenCells r sz off v).map (·.1)) :
    (r = .sdram ∧ a ∈ List.range' (Config.sdramStore + off) sz.bytes) ∨
    ((r = .frameBuffer ∨ r = .over) ∧ a ∈ List.range' (Config.frameBufferStore + off) sz.bytes) := by
  cases r <;> simp only [writtenCells, List.map_nil, List.not_mem_nil] at h
  · rw [cellsAt_addresses, beBytes_length] at h
    exact .inr ⟨.inl rfl, h⟩
  · refine .inr ⟨.inr rfl, ?_⟩
    obtain ⟨c, hc, rfl⟩ := List.mem_map.mp h
    have := List.mem_map_of_mem (f := (·.1)) (List.mem_of_mem_filter hc)
    rwa [cellsAt_addresses, beBytes_length] at this
  · rw [cellsAt_addresses, beBytes_length] at h
    exact .inl ⟨rfl, h⟩

/-- A byte outside the bytes of the access is held as before a write of the core. -/
theorem memWrite_heldByte {sz : Size} {addr v : Word} {s t : State}
    (h : memWrite .core sz addr v s = .ok t) : SameBytesBut (storedBytes s sz addr) s t := by
  intro a ha
  obtain ⟨-, rfl | ⟨-, rfl⟩ | ⟨off, -, -, rfl⟩ | ⟨off, r, -, -, rfl⟩ | ⟨off, hd, hr, rfl⟩ | ⟨off, -, rfl⟩ |
    ⟨r, off, hd, -, rfl⟩⟩ := memWrite_cases h
  · rfl
  · rw [State.purgeWrite_frame]; rfl
  · rfl
  · unfold State.heldByte; rw [(s.writeRegister_frame r v).2]
  · apply State.heldByte_writeCells_of_not_mem
    rw [cellsAt_addresses, beBytes_length]
    simpa [storedBytes, hd, hr] using ha
  · rw [State.systemWrite_frame]; rfl
  · rw [State.heldByte_storeCells]
    apply State.heldByte_writeCells_of_not_mem
    intro hm
    rcases writtenCells_addresses r sz off v a hm with ⟨rfl, h'⟩ | ⟨rfl | rfl, h'⟩ <;>
      exact ha (by simpa only [storedBytes, hd] using h')

/-- A register reached at its own address and width is touched. -/
theorem registerAt_touches {off : Nat} {sz : Size} {r : OnChipReg} (hr : registerAt off sz = some r) :
    touchesRegister off sz = true := by
  unfold registerAt at hr
  obtain ⟨row, hrow, -⟩ := Option.map_eq_some_iff.mp hr
  have hp := List.find?_some hrow
  have hmem := List.mem_of_find?_eq_some hrow
  simp only [decide_eq_true_eq] at hp
  unfold touchesRegister
  rw [Bool.or_eq_true]
  refine .inr (List.any_eq_true.mpr ⟨row, hmem, ?_⟩)
  unfold overlaps
  have hpos : 0 < row.2.2.bytes := by cases row.2.2 <;> decide
  rw [hp.1, ← hp.2]
  simpa using hpos

/-- A write that reaches no controller changes bytes and their earlier values only. -/
theorem memWrite_bytesOnly {sz : Size} {addr v : Word} {s t : State}
    (h : memWrite .core sz addr v s = .ok t) (hc : reachesController s sz addr = false) :
    t = { s with mem := t.mem, stale := t.stale } := by
  obtain ⟨-, rfl | ⟨-, rfl⟩ | ⟨off, hd, hw, rfl⟩ | ⟨off, r, hd, hr, rfl⟩ | ⟨off, -, -, rfl⟩ | ⟨off, hd, rfl⟩ |
    ⟨r, off, -, -, rfl⟩⟩ := memWrite_cases h
  · rfl
  · rw [State.purgeWrite_frame]
  · simp [reachesController, hd, touchesRegister, hw] at hc
  · simp [reachesController, hd, registerAt_touches hr] at hc
  · rfl
  · simp [reachesController, hd] at hc
  · rw [State.storeCells_eq]; rfl

/-- A write of an agent other than the core reaches bytes, the mask register and a source of the board only (R78). -/
theorem memWrite_dmac_frame {c : Channel} {sz : Size} {addr v : Word} {s t : State}
    (h : memWrite (.dmac c) sz addr v s = .ok t) :
    t = { s with mem := t.mem, stale := t.stale, intc := t.intc } := by
  have noChip : ∀ off, decodeAddress s.params (.dmac c) addr sz .write ≠ .onChip off := by
    intro off
    unfold decodeAddress
    split
    · simp
    · unfold decodeRegion
      repeat' split
      all_goals simp
  obtain ⟨-, rfl | ⟨-, rfl⟩ | ⟨off, hd, -, rfl⟩ | ⟨off, r, hd, -, rfl⟩ | ⟨off, hd, -, rfl⟩ | ⟨off, hd, rfl⟩ |
    ⟨r, off, -, -, rfl⟩⟩ := memWrite_cases h
  · rfl
  · rw [State.purgeWrite_frame]
  · exact absurd hd (noChip off)
  · exact absurd hd (noChip off)
  · exact absurd hd (noChip off)
  · rw [State.systemWrite_frame]
  · rw [State.storeCells_eq]; rfl

end Sys2Proof.Machine
end

