-- ==== Sys2Proof/Laws/Ops.lean ====
section
/-! SUPPORT. For each shared operation one lemma that says all it can do when it answers a next state. -/

namespace Sys2Proof.Machine

theorem andThen_next {o : Result} {k : State → Result} {t : State} (h : andThen o k = .next t) :
    ∃ s, o = .next s ∧ k s = .next t := by
  cases o with
  | next s => exact ⟨s, rfl, h⟩
  | fault f => cases h
  | refused r => cases h

theorem loadThen_next {sz : Size} {ea : Word} {s t : State} {k : Word → State → Result}
    (h : loadThen sz ea s k = .next t) : ∃ v s', memRead .core sz ea s = .ok (v, s') ∧ k v s' = .next t := by
  unfold loadThen at h
  split at h
  · rename_i v s' hr
    exact ⟨v, s', hr, h⟩
  · cases h

theorem loadThen_ok {sz : Size} {ea v : Word} {s s' : State} (h : memRead .core sz ea s = .ok (v, s'))
    (k : Word → State → Result) : loadThen sz ea s k = k v s' := by
  unfold loadThen; rw [h]

theorem loadThen_error {sz : Size} {ea : Word} {s : State} {f : Fault} (h : memRead .core sz ea s = .error f)
    (k : Word → State → Result) : loadThen sz ea s k = .fault f := by
  unfold loadThen; rw [h]

theorem loadUncachedThen_next {sz : Size} {ea : Word} {s t : State} {k : Word → State → Result}
    (h : loadUncachedThen sz ea s k = .next t) : ∃ v s', memReadUncached sz ea s = .ok (v, s') ∧ k v s' = .next t := by
  unfold loadUncachedThen at h
  split at h
  · rename_i v s' hr
    exact ⟨v, s', hr, h⟩
  · cases h

theorem loadUncachedThen_ok {sz : Size} {ea v : Word} {s s' : State} (h : memReadUncached sz ea s = .ok (v, s'))
    (k : Word → State → Result) : loadUncachedThen sz ea s k = k v s' := by
  unfold loadUncachedThen; rw [h]

theorem loadUncachedThen_error {sz : Size} {ea : Word} {s : State} {f : Fault}
    (h : memReadUncached sz ea s = .error f) (k : Word → State → Result) : loadUncachedThen sz ea s k = .fault f := by
  unfold loadUncachedThen; rw [h]

theorem storeThen_next {sz : Size} {ea v : Word} {s t : State} {k : State → Result}
    (h : storeThen sz ea v s k = .next t) : ∃ s', memWrite .core sz ea v s = .ok s' ∧ k s' = .next t := by
  unfold storeThen at h
  split at h
  · rename_i s' hr
    exact ⟨s', hr, h⟩
  · cases h

theorem storeThen_ok {sz : Size} {ea v : Word} {s s' : State} (h : memWrite .core sz ea v s = .ok s')
    (k : State → Result) : storeThen sz ea v s k = k s' := by
  unfold storeThen; rw [h]

theorem storeThen_error {sz : Size} {ea v : Word} {s : State} {f : Fault} (h : memWrite .core sz ea v s = .error f)
    (k : State → Result) : storeThen sz ea v s k = .fault f := by
  unfold storeThen; rw [h]

theorem outsideSlot_none {s : State} (h : s.delaySlot = none) (k : Result) : outsideSlot s k = k := by
  unfold outsideSlot; rw [h]

theorem outsideSlot_some {s : State} {w : Word} (h : s.delaySlot = some w) (k : Result) :
    outsideSlot s k = .fault (.slotIllegal s.pc) := by
  unfold outsideSlot; rw [h]

theorem outsideSlot_next {s t : State} {k : Result} (h : outsideSlot s k = .next t) :
    s.delaySlot = none ∧ k = .next t := by
  unfold outsideSlot at h
  split at h
  · rename_i hs; exact ⟨hs, h⟩
  · cases h

/-- A point inside an instruction where no batch of moves is left changes nothing (R94; log 20). -/
theorem interpose_nil {s : State} (h : s.inside = []) : interpose s = .next s := by
  unfold interpose; rw [h]

/-- A point inside an instruction where a batch is left: its moves happen (R94; log 20). -/
theorem interpose_cons {s : State} {batch : List Move} {rest : List (List Move)} (h : s.inside = batch :: rest) :
    interpose s = moveSteps batch { s with inside := rest } := by
  unfold interpose; rw [h]

/-- Taking an exception: two pushes, then the vector's longword, other agents' moves in between (R404, R94). -/
theorem enter_next {vector : Nat} {savedPc : Word} {newImask : Option (BitVec 4)} {s t : State}
    (h : enter vector savedPc newImask s = .next t) :
    ∃ s1 s2 s3 s4 handler s5,
      memWrite .core .long (s.reg 15 - 4) s.sr (s.setReg 15 (s.reg 15 - 4)) = .ok s1 ∧
      interpose s1 = .next s2 ∧
      memWrite .core .long (s2.reg 15 - 4) savedPc (s2.setReg 15 (s2.reg 15 - 4)) = .ok s3 ∧
      interpose (s3.withMask newImask) = .next s4 ∧
      memRead .core .long (vectorAddress s4 vector) s4 = .ok (handler, s5) ∧
      t = { s5 with pc := handler } := by
  unfold enter pushThen at h
  obtain ⟨s1, h1, h⟩ := storeThen_next h
  obtain ⟨s2, h2, h⟩ := andThen_next h
  obtain ⟨s3, h3, h⟩ := storeThen_next h
  obtain ⟨s4, h4, h⟩ := andThen_next h
  obtain ⟨handler, s5, h5, h⟩ := loadThen_next h
  exact ⟨s1, s2, s3, s4, handler, s5, h1, h2, h3, h4, h5, by simpa [jump] using h.symm⟩

/-- The sample either finds nothing to accept or accepts one source (R410). -/
theorem sample_cases (s : State) :
    sample s = .next s ∨
    (s.imask.toNat < s.intc.currentLevel ∧ ∃ src s', chooseSource s (s.intc.sourcesAt s.intc.currentLevel) = some (src, s') ∧
      sample s = acceptInterrupt s.intc.currentLevel src s') := by
  unfold sample
  split
  · rename_i hl
    split
    · rename_i src s' hc
      exact .inr ⟨hl, src, s', hc, rfl⟩
    · exact .inl rfl
  · exact .inl rfl

/-- The acceptance of a source, other agents' moves, then the entry (R410, R94). -/
theorem acceptInterrupt_next {level : Nat} {src : Source} {s t : State} (h : acceptInterrupt level src s = .next t) :
    ∃ s', interpose { s.acceptSource src with run := .running } = .next s' ∧
      enter (s.vectorFor src) s.pc (some (acceptedMask level)) s' = .next t :=
  andThen_next h

/-- A choice among sources takes one of them, and at most a draw. -/
theorem chooseSource_mem {s s' : State} {srcs : List Source} {src : Source}
    (h : chooseSource s srcs = some (src, s')) : src ∈ srcs ∧ s' = { s with draws := s'.draws } := by
  unfold chooseSource at h
  split at h
  · cases h
  · simp only [Option.some.injEq, Prod.mk.injEq] at h
    obtain ⟨rfl, rfl⟩ := h
    exact ⟨List.mem_singleton.mpr rfl, rfl⟩
  · rename_i x more _
    simp only [Option.some.injEq, Prod.mk.injEq] at h
    obtain ⟨rfl, rfl⟩ := h
    refine ⟨?_, rfl⟩
    rw [List.getD_eq_getElem?_getD]
    have hlt : Config.tieChoice s.draws % (more.length + 1) < (x :: more).length := by
      simpa using Nat.mod_lt _ (Nat.succ_pos _)
    rw [List.getElem?_eq_getElem hlt]
    exact List.getElem_mem hlt

end Sys2Proof.Machine
end

