-- ==== Sys2Proof/Laws/Moves.lean ====
section
/-! SUPPORT. What the moves of the agents other than the core can do (20_memory R92, R93), between two steps or inside an
instruction. -/

namespace Sys2Proof.Machine

/-- The next state of an outcome, if there is one, has the property. -/
def Keeps (P : State → Prop) (o : Result) : Prop := ∀ t, o = .next t → P t

theorem keeps_next {P : State → Prop} {s : State} (h : P s) : Keeps P (.next s) := fun t e => by cases e; exact h

theorem keeps_fault {P : State → Prop} {f : Fault} : Keeps P (.fault f) := fun _ e => by cases e

theorem keeps_refused {P : State → Prop} {r : Refusal} : Keeps P (.refused r) := fun _ e => by cases e

theorem keeps_andThen {P : State → Prop} {o : Result} {k : State → Result} (ho : Keeps P o)
    (hk : ∀ s, P s → Keeps P (k s)) : Keeps P (andThen o k) := by
  intro t h
  obtain ⟨s, h1, h2⟩ := andThen_next h
  exact hk s (ho s h1) t h2

theorem keeps_ofExcept {P : State → Prop} {e : Except Fault State} (h : ∀ t, e = .ok t → P t) :
    Keeps P (ofExcept e) := by
  intro t ht
  unfold ofExcept at ht
  split at ht
  · rename_i s'
    have e : s' = t := by simpa using ht
    exact e ▸ h s' rfl
  · cases ht

/-- One `DmaUnit` that succeeds: a read, then a write, then the registers step, then perhaps completion (R463, R464). -/
theorem dmaUnit_ok {c : Channel} {s t : State} (h : dmaUnit c s = .ok t) :
    ∃ ds dd v s1 s2, modeDelta (s.chan c).sourceMode (s.chan c).unitSize = some ds ∧
      modeDelta (s.chan c).destMode (s.chan c).unitSize = some dd ∧
      memRead (.dmac c) (s.chan c).unitSize (s.chan c).sar s = .ok (v, s1) ∧
      memWrite (.dmac c) (s.chan c).unitSize (s.chan c).dar v s1 = .ok s2 ∧
      (let s3 := s2.setChan c ((s2.chan c).stepped s2.params ds dd)
       t = if (s3.chan c).tcr = 0 then s3.dmaComplete c else s3) := by
  unfold dmaUnit at h
  simp only [] at h
  split at h
  · cases h
  · cases h
  · rename_i ds dd hs hd
    split at h
    · cases h
    · rename_i v s1 hr
      split at h
      · cases h
      · rename_i s2 hw
        exact ⟨ds, dd, v, s1, s2, hs, hd, hr, hw, by simpa using h.symm⟩

/-- A property every `DmaUnit` keeps is kept by the channel's step. -/
theorem dmaMove_keeps {P : State → Prop} {c : Channel} (hu : ∀ s t, P s → dmaUnit c s = .ok t → P t) {s t : State}
    (h : P s) (ht : dmaMove c s = .ok t) : P t := by
  have units : ∀ k s t, P s → dmaUnits c k s = .ok t → P t := by
    intro k
    induction k with
    | zero => intro s t h e; simp only [dmaUnits, Except.ok.injEq] at e; exact e ▸ h
    | succ k ih =>
      intro s t h e
      unfold dmaUnits at e
      split at e
      · cases e
      · rename_i s' hs'
        have h' := hu s s' h hs'
        split at e
        · simp only [Except.ok.injEq] at e; exact e ▸ h'
        · exact ih s' t h' e
  unfold dmaMove at ht
  split at ht
  · exact units _ s t h ht
  · simp only [Except.ok.injEq] at ht; exact ht ▸ h

/-- An inactive channel changes nothing on its turn (R462). -/
theorem dmaMove_inactive {c : Channel} {s : State} (h : s.dmaActive c = false) : dmaMove c s = .ok s := by
  unfold dmaMove; simp [h]

/-- A property an overflow and the counter's step keep is kept by the WDT's step (R484). -/
theorem wdtStep_keeps {P : State → Prop} (hpresc : ∀ s n, P s → P { s with wdt := { s.wdt with presc := n } })
    (hcnt : ∀ s b, P s → P { s with wdt := { s.wdt with wtcnt := b } })
    (hovf : ∀ s, P s → Keeps P s.wdtOverflow) {s : State} (h : P s) (n : ℕ+) : Keeps P (s.wdtStep n) := by
  have ticks : ∀ k s, P s → Keeps P (State.wdtTicks k s) := by
    intro k
    induction k with
    | zero => exact fun s h => keeps_next h
    | succ k ih =>
      intro s h t ht
      unfold State.wdtTicks at ht
      simp only [] at ht
      split at ht
      · split at ht
        · rename_i s'' hs''
          exact ih s'' (hovf _ (hcnt s _ h) s'' hs'') t ht
        · cases ht
        · cases ht
      · exact ih _ (hcnt s _ h) t ht
  unfold State.wdtStep State.wdtRun
  split
  · exact ticks _ _ (hpresc s _ h)
  · exact keeps_next h

/-- A write of the other node stores bytes of a shared store and does nothing else. -/
theorem State.otherNodeWrite_cases (s : State) (sz : Size) (addr v : Word) :
    s.otherNodeWrite sz addr v = s ∨
    ∃ r off, decodeRegion s.params addr sz .write = .region r off ∧
      s.otherNodeWrite sz addr v = s.storeCells true (writtenCells r sz off v) := by
  unfold State.otherNodeWrite
  split
  · split
    · rename_i r off hd; exact .inr ⟨r, off, hd, rfl⟩
    · exact .inl rfl
  · exact .inl rfl

/-- What a property must withstand to be kept by every move of another agent. -/
structure ClosedMoves (P : State → Prop) : Prop where
  dma : ∀ c s t, P s → dmaUnit c s = .ok t → P t
  wdt : ∀ s n, P s → Keeps P (s.wdtStep n)
  raise : ∀ s b, P s → P (s.setPending (.board b) true)
  trigger : ∀ s c v, P s → P (s.setChan c { s.chan c with extTrigger := v })
  swap : ∀ s, P s → P s.swapBank
  frame : ∀ s off v, P s → P (s.hostFrameWrite off v)
  other : ∀ s sz a v, P s → P (s.otherNodeWrite sz a v)

/-- Every move keeps it. -/
theorem moveStep_keeps {P : State → Prop} (c : ClosedMoves P) (m : Move) {s : State} (h : P s) :
    Keeps P (moveStep m s) := by
  cases m with
  | dma ch => exact keeps_ofExcept (fun t ht => dmaMove_keeps (c.dma ch) h ht)
  | wdt n => exact c.wdt s n h
  | hostRaise b => exact keeps_next (c.raise s b h)
  | hostTrigger ch v => exact keeps_next (c.trigger s ch v h)
  | hostBankSwap => exact keeps_next (c.swap s h)
  | hostFrameBuffer off v => exact keeps_next (c.frame s off v h)
  | otherNode a sz v => exact keeps_next (c.other s sz a v h)

theorem moveSteps_keeps {P : State → Prop} (c : ClosedMoves P) (ms : List Move) :
    ∀ {s : State}, P s → Keeps P (moveSteps ms s) := by
  induction ms with
  | nil => exact fun h => keeps_next h
  | cons m ms ih => exact fun h => keeps_andThen (moveStep_keeps c m h) (fun _ h' => ih h')

/-- What falls inside an instruction keeps it. -/
theorem interpose_keeps {P : State → Prop} (c : ClosedMoves P) (inside : ∀ s l, P s → P { s with inside := l }) {s : State}
    (h : P s) : Keeps P (interpose s) := by
  unfold interpose
  split
  · exact keeps_next h
  · exact moveSteps_keeps c _ (inside s _ h)

/-- What the moves of other agents leave alone: the core, the DMAC's operation register, the division unit, the standby and
cache registers, the parameters, the order of the agents. -/
def SameElsewhere (s t : State) : Prop :=
  t = { s with
    mem := t.mem, stale := t.stale, intc := t.intc, dma0 := t.dma0, dma1 := t.dma1, wdt := t.wdt, fbBank := t.fbBank
    draws := t.draws }

theorem SameElsewhere.trans {r s t : State} (h1 : SameElsewhere r s) (h2 : SameElsewhere s t) : SameElsewhere r t := by
  unfold SameElsewhere at *
  rw [h2, h1]

theorem SameElsewhere.setChan (s : State) (c : Channel) (d : DmaChannel) : SameElsewhere s (s.setChan c d) := by
  cases c <;> rfl

theorem State.setPending_elsewhere (s : State) (src : Source) (b : Bool) : SameElsewhere s (s.setPending src b) := rfl

theorem State.storeCells_elsewhere (s : State) (f : Bool) (cs : List Host.Cell) : SameElsewhere s (s.storeCells f cs) := by
  rw [State.storeCells_eq]; rfl

/-- A `DmaUnit` leaves them alone. -/
theorem dmaUnit_elsewhere {c : Channel} {s t : State} (h : dmaUnit c s = .ok t) : SameElsewhere s t := by
  obtain ⟨ds, dd, v, s1, s2, -, -, hr, hw, rfl⟩ := dmaUnit_ok h
  have h1 : SameElsewhere s s1 := by unfold SameElsewhere; rw [memRead_frame hr]
  have h2 : SameElsewhere s1 s2 := by unfold SameElsewhere; rw [memWrite_dmac_frame hw]
  have h3 := SameElsewhere.setChan s2 c ((s2.chan c).stepped s2.params ds dd)
  refine (h1.trans h2).trans (h3.trans ?_)
  split
  · unfold State.dmaComplete
    simp only []
    split
    · exact (SameElsewhere.setChan _ _ _).trans (State.setPending_elsewhere _ _ _)
    · exact SameElsewhere.setChan _ _ _
  · rfl

/-- An overflow that does not reset touches the timer and the INTC only (R485 to R487). -/
theorem State.wdtOverflow_frame {s t : State} (h : s.wdtOverflow = .next t) : t = { s with wdt := t.wdt, intc := t.intc } := by
  unfold State.wdtOverflow at h
  simp only [] at h
  split at h
  · cases h
  · simp only [Host.Outcome.next.injEq] at h
    rw [← h]
    split <;> rfl

/-- Whatever other agents do, these are left alone. -/
theorem closedMoves_elsewhere (r : State) : ClosedMoves (SameElsewhere r) where
  dma c s t h ht := h.trans (dmaUnit_elsewhere ht)
  wdt s n h :=
    wdtStep_keeps (P := SameElsewhere r)
      (fun s n h => h.trans (t := { s with wdt := { s.wdt with presc := n } }) rfl)
      (fun s b h => h.trans (t := { s with wdt := { s.wdt with wtcnt := b } }) rfl)
      (fun s h t ht => h.trans (by unfold SameElsewhere; rw [State.wdtOverflow_frame ht])) h n
  raise s b h := h.trans (State.setPending_elsewhere s _ _)
  trigger s c v h := h.trans (SameElsewhere.setChan s c _)
  swap s h := h.trans (by unfold SameElsewhere State.swapBank; rfl)
  frame s off v h := h.trans (by
    unfold State.hostFrameWrite
    split
    · exact State.storeCells_elsewhere _ _ _
    · rfl)
  other s sz a v h := h.trans (by
    rcases s.otherNodeWrite_cases sz a v with e | ⟨_, _, -, e⟩
    · rw [e]; rfl
    · rw [e]; exact State.storeCells_elsewhere _ _ _)

/-- What falls inside an instruction takes its batch and leaves the core and its order alone. -/
theorem interpose_elsewhere {s t : State} (h : interpose s = .next t) :
    SameElsewhere { s with inside := s.inside.tail } t := by
  unfold interpose at h
  split at h
  · rename_i hs
    have e : s = t := by simpa using h
    rw [hs, List.tail_nil, ← hs, ← e]
    unfold SameElsewhere
    rfl
  · rename_i batch rest hs
    rw [hs, List.tail_cons]
    exact moveSteps_keeps (closedMoves_elsewhere { s with inside := rest }) batch
      (show SameElsewhere { s with inside := rest } { s with inside := rest } from rfl) t h

end Sys2Proof.Machine
end

