-- ==== Sys2Proof/Laws/Closed.lean ====
section
/-! SUPPORT. One induction for every invariant: a property of states that the elementary updates, the reads and the writes
keep is kept by every instruction, by taking an exception, by the core's move. -/

namespace Sys2Proof.Machine

/-- A property kept by each thing an instruction can do to the state, and by the moves that may fall inside it. -/
structure Closed (P : State → Prop) : Prop where
  setReg : ∀ s i v, P s → P (s.setReg i v)
  setFlow : ∀ s v slot, P s → P { s with pc := v, delaySlot := slot }
  setSr : ∀ s v, P s → P (s.setSr v)
  setT : ∀ s b, P s → P (s.setT b)
  setQ : ∀ s b, P s → P (s.setQ b)
  setM : ∀ s b, P s → P (s.setM b)
  setImask : ∀ s l, P s → P (s.setImask l)
  setMach : ∀ s v, P s → P { s with mach := v }
  setMacl : ∀ s v, P s → P { s with macl := v }
  setBoth : ∀ s v w, P s → P { s with mach := v, macl := w }
  setGbr : ∀ s v, P s → P { s with gbr := v }
  setVbr : ∀ s v, P s → P { s with vbr := v }
  setPr : ∀ s v, P s → P { s with pr := v }
  setRun : ∀ s v, P s → P { s with run := v }
  setDraws : ∀ s v, P s → P { s with draws := v }
  acceptSource : ∀ s src, P s → P (s.acceptSource src)
  write : ∀ {ag sz a v s t}, P s → memWrite ag sz a v s = .ok t → P t
  moves : ClosedMoves P
  inside : ∀ s l, P s → P { s with inside := l }

variable {P : State → Prop}

theorem Closed.read (c : Closed P) {ag : Agent} {sz : Size} {a v : Word} {s t : State} (h : P s)
    (hr : memRead ag sz a s = .ok (v, t)) : P t := by
  rw [memRead_frame hr]; exact c.setDraws s _ h

theorem Closed.setPc (c : Closed P) (s : State) (v : Word) (h : P s) : P { s with pc := v } :=
  c.setFlow s v s.delaySlot h

theorem Closed.setMac (c : Closed P) (s : State) (v : BitVec 64) (h : P s) : P (s.setMac v) :=
  c.setBoth s _ _ h

theorem keeps_done (c : Closed P) {s : State} (h : P s) : Keeps P (done s) := keeps_next (c.setPc s _ h)

theorem keeps_interpose (c : Closed P) {s : State} (h : P s) : Keeps P (interpose s) := interpose_keeps c.moves c.inside h

theorem keeps_loadThen (c : Closed P) {sz : Size} {ea : Word} {s : State} {k : Word → State → Result} (h : P s)
    (hk : ∀ v s', P s' → Keeps P (k v s')) : Keeps P (loadThen sz ea s k) := by
  intro t ht
  obtain ⟨v, s', h1, h2⟩ := loadThen_next ht
  exact hk v s' (c.read h h1) t h2

theorem keeps_loadUncachedThen (c : Closed P) {sz : Size} {ea : Word} {s : State} {k : Word → State → Result} (h : P s)
    (hk : ∀ v s', P s' → Keeps P (k v s')) : Keeps P (loadUncachedThen sz ea s k) := by
  intro t ht
  obtain ⟨v, s', h1, h2⟩ := loadUncachedThen_next ht
  have h' : P s' := by
    have e := memReadVia_frame h1
    rw [e]; exact c.setDraws s _ h
  exact hk v s' h' t h2

theorem keeps_storeThen (c : Closed P) {sz : Size} {ea v : Word} {s : State} {k : State → Result} (h : P s)
    (hk : ∀ s', P s' → Keeps P (k s')) : Keeps P (storeThen sz ea v s k) := by
  intro t ht
  obtain ⟨s', h1, h2⟩ := storeThen_next ht
  exact hk s' (c.write h h1) t h2

theorem keeps_outsideSlot {s : State} {k : Result} (hk : Keeps P k) : Keeps P (outsideSlot s k) :=
  fun t h => hk t (outsideSlot_next h).2

theorem keeps_writeReg (c : Closed P) {n : Reg} {v : Word} {s : State} (h : P s) : Keeps P (writeReg n v s) :=
  keeps_done c (c.setReg s n v h)

theorem keeps_writeT (c : Closed P) {b : Bool} {s : State} (h : P s) : Keeps P (writeT b s) :=
  keeps_done c (c.setT s b h)

theorem keeps_writeRegT (c : Closed P) {n : Reg} {r : Word × Bool} {s : State} (h : P s) :
    Keeps P (writeRegT n r s) := keeps_done c (c.setT _ _ (c.setReg s n _ h))

theorem keeps_loadReg (c : Closed P) {sz : Size} {ea : Word} {n : Reg} {s : State} (h : P s) :
    Keeps P (loadReg sz ea n s) := keeps_loadThen c h (fun _ _ h' => keeps_writeReg c h')

theorem keeps_loadRegInc (c : Closed P) {sz : Size} {m n : Reg} {s : State} (h : P s) :
    Keeps P (loadRegInc sz m n s) := by
  refine keeps_loadThen c h (fun v s' h' => ?_)
  split
  · exact keeps_writeReg c h'
  · exact keeps_writeReg c (c.setReg _ _ _ h')

theorem keeps_store (c : Closed P) {sz : Size} {ea v : Word} {s : State} (h : P s) : Keeps P (store sz ea v s) :=
  keeps_storeThen c h (fun _ h' => keeps_done c h')

theorem keeps_storeDec (c : Closed P) {sz : Size} {n : Reg} {v : Word} {s : State} (h : P s) :
    Keeps P (storeDec sz n v s) := keeps_storeThen c h (fun _ h' => keeps_writeReg c h')

theorem keeps_popInto (c : Closed P) {m : Reg} {put : State → Word → State} {s : State} (h : P s)
    (hput : ∀ s v, P s → P (put s v)) : Keeps P (popInto m put s) :=
  keeps_loadThen c h (fun _ _ h' => keeps_done c (hput _ _ (c.setReg _ _ _ h')))

theorem keeps_modifyByte (c : Closed P) {ea : Word} {f : Word → Word} {s : State} (h : P s) :
    Keeps P (modifyByte ea f s) :=
  keeps_loadThen c h (fun _ _ h' => keeps_andThen (keeps_interpose c h') (fun _ h'' => keeps_store c h''))

theorem keeps_jump (c : Closed P) {target : Word} {s : State} (h : P s) : Keeps P (jump target s) :=
  keeps_next (c.setPc s target h)

theorem keeps_delayedBranch (c : Closed P) {target : Word} {s : State} (h : P s) :
    Keeps P (delayedBranch target s) := keeps_next (c.setFlow s _ _ h)

theorem keeps_pcBaseThen {s : State} {k : Word → Result} (hk : ∀ b, Keeps P (k b)) : Keeps P (pcBaseThen s k) := by
  unfold pcBaseThen
  split
  · exact hk _
  · split
    · exact keeps_refused
    · exact hk _
    · exact hk _

theorem keeps_enter (c : Closed P) {vector : Nat} {savedPc : Word} {newImask : Option (BitVec 4)} {s : State}
    (h : P s) : Keeps P (enter vector savedPc newImask s) := by
  refine keeps_storeThen c (c.setReg _ _ _ h) (fun s1 h1 => keeps_andThen (keeps_interpose c h1) (fun s2 h2 => ?_))
  refine keeps_storeThen c (c.setReg _ _ _ h2) (fun s3 h3 => keeps_andThen (keeps_interpose c ?_) (fun s4 h4 => ?_))
  · cases newImask
    · exact h3
    · exact c.setImask _ _ h3
  · exact keeps_loadThen c h4 (fun _ _ h' => keeps_jump c h')

theorem keeps_returnFromException (c : Closed P) {s : State} (h : P s) : Keeps P (returnFromException s) := by
  refine keeps_loadThen c h (fun _ s1 h1 => keeps_andThen (keeps_interpose c (c.setReg _ _ _ h1)) (fun s2 h2 => ?_))
  refine keeps_loadThen c h2 (fun _ s3 h3 => ?_)
  exact keeps_delayedBranch c (c.setSr _ _ (c.setReg _ _ _ h3))

theorem keeps_macOperands (c : Closed P) {sz : Size} {m n : Reg} {s : State} {k : Word → Word → State → Result}
    (h : P s) (hk : ∀ a b s', P s' → Keeps P (k a b s')) : Keeps P (macOperands sz m n s k) := by
  refine keeps_loadThen c h (fun _ s1 h1 => keeps_andThen (keeps_interpose c (c.setReg _ _ _ h1)) (fun s2 h2 => ?_))
  exact keeps_loadThen c h2 (fun _ s3 h3 => hk _ _ _ (c.setReg _ _ _ h3))

theorem Closed.accumulateLong (c : Closed P) (p : Int) {s : State} (h : P s) : P (accumulateLong p s) := by
  unfold Sys2Proof.Machine.accumulateLong
  split
  · exact c.setMac _ _ h
  · exact c.setDraws _ _ (c.setMac _ _ h)

/-- Every instruction keeps what its elementary updates, reads and writes keep. -/
theorem exec_keeps (c : Closed P) (i : Instr) {s : State} (h : P s) : Keeps P (exec i s) := by
  cases i
  case movWLoadPc n disp =>
    show Keeps P (execMovWLoadPc n disp s)
    exact keeps_pcBaseThen (fun _ => keeps_loadReg c h)
  case movLLoadPc n disp =>
    show Keeps P (execMovLLoadPc n disp s)
    exact keeps_pcBaseThen (fun _ => keeps_loadReg c h)
  case mova disp =>
    show Keeps P (execMova disp s)
    exact keeps_pcBaseThen (fun _ => keeps_writeReg c h)
  case div1 => exact keeps_done c (c.setT _ _ (c.setQ _ _ (c.setReg _ _ _ h)))
  case div0s => exact keeps_done c (c.setT _ _ (c.setM _ _ (c.setQ _ _ h)))
  case div0u => exact keeps_done c (c.setT _ _ (c.setQ _ _ (c.setM _ _ h)))
  case dmulsL => exact keeps_done c (c.setMac _ _ h)
  case dmuluL => exact keeps_done c (c.setMac _ _ h)
  case macL m n =>
    show Keeps P (execMacL m n s)
    exact keeps_macOperands c h (fun _ _ _ h' => keeps_done c (c.accumulateLong _ h'))
  case andB imm =>
    show Keeps P (execAndB imm s)
    exact keeps_modifyByte c h
  case orB imm =>
    show Keeps P (execOrB imm s)
    exact keeps_modifyByte c h
  case xorB imm =>
    show Keeps P (execXorB imm s)
    exact keeps_modifyByte c h
  case macW m n =>
    show Keeps P (execMacW m n s)
    exact keeps_macOperands c h (fun _ _ s' h' => keeps_done c (c.setBoth s' _ _ h'))
  case mulL => exact keeps_done c (c.setMacl _ _ h)
  case mulsW => exact keeps_done c (c.setMacl _ _ h)
  case muluW => exact keeps_done c (c.setMacl _ _ h)
  case tasB => exact keeps_loadUncachedThen c h (fun _ _ h' => keeps_storeThen c h' (fun _ h'' => keeps_writeT c h''))
  case tstB => exact keeps_loadThen c h (fun _ _ h' => keeps_writeT c h')
  case bf => exact keeps_outsideSlot (by split; exact keeps_jump c h; exact keeps_done c h)
  case bt => exact keeps_outsideSlot (by split; exact keeps_jump c h; exact keeps_done c h)
  case bfs => exact keeps_outsideSlot (keeps_delayedBranch c h)
  case bts => exact keeps_outsideSlot (keeps_delayedBranch c h)
  case bra => exact keeps_outsideSlot (keeps_delayedBranch c h)
  case braf => exact keeps_outsideSlot (keeps_delayedBranch c h)
  case jmp => exact keeps_outsideSlot (keeps_delayedBranch c h)
  case rts => exact keeps_outsideSlot (keeps_delayedBranch c h)
  case bsr => exact keeps_outsideSlot (keeps_delayedBranch c (c.setPr _ _ h))
  case bsrf => exact keeps_outsideSlot (keeps_delayedBranch c (c.setPr _ _ h))
  case jsr => exact keeps_outsideSlot (keeps_delayedBranch c (c.setPr _ _ h))
  case rte =>
    show Keeps P (execRte s)
    exact keeps_outsideSlot (keeps_returnFromException c h)
  case trapa imm =>
    show Keeps P (execTrapa imm s)
    exact keeps_outsideSlot (keeps_enter c h)
  case sleep =>
    show Keeps P (execSleep s)
    unfold execSleep
    split
    · exact keeps_refused
    · exact keeps_done c (c.setRun _ _ h)
  case clrmac => exact keeps_done c (c.setBoth _ _ _ h)
  case ldcSr => exact keeps_done c (c.setSr _ _ h)
  case ldcGbr => exact keeps_done c (c.setGbr _ _ h)
  case ldcVbr => exact keeps_done c (c.setVbr _ _ h)
  case ldsMach => exact keeps_done c (c.setMach _ _ h)
  case ldsMacl => exact keeps_done c (c.setMacl _ _ h)
  case ldsPr => exact keeps_done c (c.setPr _ _ h)
  case ldcLSr => exact keeps_popInto c h c.setSr
  case ldcLGbr => exact keeps_popInto c h c.setGbr
  case ldcLVbr => exact keeps_popInto c h c.setVbr
  case ldsLMach => exact keeps_popInto c h c.setMach
  case ldsLMacl => exact keeps_popInto c h c.setMacl
  case ldsLPr => exact keeps_popInto c h c.setPr
  case nop => exact keeps_done c h
  all_goals first
    | exact keeps_writeReg c h
    | exact keeps_writeT c h
    | exact keeps_writeRegT c h
    | exact keeps_loadReg c h
    | exact keeps_loadRegInc c h
    | exact keeps_store c h
    | exact keeps_storeDec c h

/-- The sample keeps it. -/
theorem sample_keeps (c : Closed P) {s : State} (h : P s) : Keeps P (sample s) := by
  rcases sample_cases s with hs | ⟨-, src, s', hc, hs⟩
  · rw [hs]; exact keeps_next h
  · rw [hs]
    have h' : P s' := by rw [(chooseSource_mem hc).2]; exact c.setDraws _ _ h
    exact keeps_andThen (keeps_interpose c (c.setRun _ _ (c.acceptSource _ _ h'))) (fun _ h'' => keeps_enter c h'')

/-- One fetched instruction keeps it. -/
theorem runOne_keeps (c : Closed P) {s : State} (h : P s) : Keeps P (runOne s) := by
  refine keeps_loadThen c h (fun op s1 h1 => keeps_andThen (keeps_interpose c h1) (fun s' h' => ?_))
  unfold execOpcode
  split
  · exact exec_keeps c _ h'
  · exact keeps_outsideSlot (keeps_enter c h')

theorem Closed.commitBranch (c : Closed P) {s : State} (h : P s) : P s.commitBranch := by
  unfold State.commitBranch
  split
  · exact h
  · exact c.setFlow _ _ _ h

/-- What a running core does in one step keeps it. -/
theorem runStep_keeps (c : Closed P) {s : State} (h : P s) : Keeps P (runStep s) := by
  have slot : ∀ s, P s → Keeps P (runSlot s) := fun s h =>
    keeps_andThen (runOne_keeps c h) (fun s' h' => keeps_next (c.commitBranch h'))
  unfold runStep
  split
  · exact slot s h
  · refine keeps_andThen (runOne_keeps c h) (fun s' h' => ?_)
    unfold finishBranch
    split
    · exact keeps_next h'
    · exact keeps_andThen (keeps_interpose c h') slot

/-- The core's move keeps it. -/
theorem coreMove_keeps (c : Closed P) {s : State} (h : P s) : Keeps P (coreMove s) := by
  unfold coreMove
  split
  · exact keeps_next h
  · exact keeps_andThen (runStep_keeps c h) (fun _ h' => keeps_interpose c h')

end Sys2Proof.Machine
end

