-- ==== Sys2Proof/Laws/Agents.lean ====
section
/-! SUPPORT. The induction over every step of the node. -/

namespace Sys2Proof.Machine

/-- A system reset that succeeds (R501). -/
theorem systemReset_ok {s t : State} (h : systemReset s = .ok t) :
    ∃ pc sp s1 s2, memRead .core .long 0 s.clearForReset = .ok (pc, s1) ∧ memRead .core .long 4 s1 = .ok (sp, s2) ∧
      t = { s2 with pc := pc }.setReg 15 sp := by
  unfold systemReset at h
  split at h
  · cases h
  · rename_i pc s1 h1
    split at h
    · cases h
    · rename_i sp s2 h2
      exact ⟨pc, sp, s1, s2, h1, h2, by simpa using h.symm⟩

/-- What a property must withstand, beside the core's own updates and the other agents' moves, to be kept by every step of the
node. -/
structure ClosedNode (P : State → Prop) : Prop where
  core : Closed P
  schedule : ∀ s l, P s → P { s with schedule := l }
  reset : ∀ s t, P s → systemReset s = .ok t → P t

/-- Every step of every agent keeps it. -/
theorem step_keeps {P : State → Prop} (c : ClosedNode P) {s : State} (h : P s) : Keeps P (step s) := by
  have asleep : ∀ s, P s → Keeps P (sampleAsleep s) := by
    intro s h
    unfold sampleAsleep
    split
    · exact sample_keeps c.core h
    · exact keeps_next h
  have move : ∀ e s, P s → Keeps P (agentMove e s) := by
    intro e s h
    cases e with
    | core => exact keeps_andThen (coreMove_keeps c.core h) (fun s h => sample_keeps c.core h)
    | move m => exact keeps_andThen (moveStep_keeps c.core.moves m h) asleep
    | hostReset => exact keeps_ofExcept (fun t ht => c.reset s t h ht)
    | boundary => exact sample_keeps c.core h
  unfold step nodeMove
  split
  · exact move _ s h
  · exact move _ _ (c.schedule s _ h)

end Sys2Proof.Machine
end

