-- ==== Sys2Proof/Tests/Slice0.lean ====
section
/-! SUPPORT. The model's own tests, each by kernel evaluation: the well-formedness smoke tests, every opcode pattern of
30_encoding R120 written out bit by bit, and single steps whose expected results are those of 95_test_vectors (sections 2.1
to 2.13) or, where that file has no row, worked by hand from the rule named. -/

namespace Sys2Proof.Tests

open Sys2Proof.Machine

/-- A change of the start state, or a change the spec says a step makes. -/
abbrev Change := State → State

def r (n : Reg) (v : Word) : Change := fun s => s.setReg n v
def pc (v : Word) : Change := fun s => { s with pc := v }
def sr (v : Word) : Change := fun s => { s with sr := v }
def gbr (v : Word) : Change := fun s => { s with gbr := v }
def vbr (v : Word) : Change := fun s => { s with vbr := v }
def mach (v : Word) : Change := fun s => { s with mach := v }
def macl (v : Word) : Change := fun s => { s with macl := v }
def pr (v : Word) : Change := fun s => { s with pr := v }
def fT (b : Bool) : Change := fun s => s.setT b
def fS (b : Bool) : Change := fun s => { s with sr := withBit s.sr 1 b }
def fQ (b : Bool) : Change := fun s => s.setQ b
def fM (b : Bool) : Change := fun s => s.setM b
def imask (v : BitVec 4) : Change := fun s => s.setImask v
/-- Where the byte at a 28-bit address of the default map stands in the memory list. -/
def key (a : Nat) : Nat :=
  if a < 0x2000000 then Config.bootRomStore + a
  else if a < 0x4000000 then Config.cartStore + (a - 0x2000000)
  else if a < 0x6000000 then Config.frameBufferStore + (a - 0x4000000)
  else Config.sdramStore + (a - 0x6000000)

def mB (a : Nat) (v : Word) : Change := fun s => s.writeCells (cellsAt (key a) (beBytes .byte v))
def mW (a : Nat) (v : Word) : Change := fun s => s.writeCells (cellsAt (key a) (beBytes .word v))
def mL (a : Nat) (v : Word) : Change := fun s => s.writeCells (cellsAt (key a) (beBytes .long v))

def changed (cs : List Change) (s : State) : State := cs.foldl (fun s c => c s) s

/-- The opcodes at 0x06000100, `pc` there, and the changes of the start state. -/
def start (ops : List Half) (cs : List Change) : State :=
  changed cs ({ State.reset with pc := 0x06000100 }.writeCells (cellsAt (key 0x06000100) (ops.flatMap opcodeBytes)))

/-- One step from the start makes exactly the listed changes. -/
def runs (ops : List Half) (cs ends : List Change) : Bool :=
  match step (start ops cs) with
  | .next t => decide (t = changed ends (start ops cs))
  | _ => false

/-- Why a step stops, in short. -/
inductive Stop where
  | addressError
  | busPolicy
  | slotIllegal
  | pcRelInSlot
  | standbyMode
  | watchdogReset
deriving DecidableEq, Repr

def stopOf : Result → Option Stop
  | .next _ => none
  | .fault (.addressError _ _ _) => some .addressError
  | .fault (.busPolicy _ _ _ _) => some .busPolicy
  | .fault (.slotIllegal _) => some .slotIllegal
  | .refused (.pcRelInSlot _) => some .pcRelInSlot
  | .refused .standbyMode => some .standbyMode
  | .refused .watchdogReset => some .watchdogReset
  | .refused (.notModelled _) => none

def stops (ops : List Half) (cs : List Change) (why : Stop) : Bool := stopOf (step (start ops cs)) == some why


/-! ### Decoding: every constructor's opcode, written out from its pattern -/

/-- Each opcode decodes to the instruction beside it. -/
def decodesTo (rows : List (Half × Instr)) : Bool := rows.all (fun row => decide (decodeWord row.1 = some row.2))

theorem test_decode_data_transfer_1 : decodesTo
    [(0b1110100110100101, .movImm 9 0xA5), (0b1001100110011100, .movWLoadPc 9 0x9C),
     (0b1101100110011100, .movLLoadPc 9 0x9C), (0b0110100101100011, .movReg 6 9),
     (0b0010100101100000, .movBStore 6 9), (0b0010100101100001, .movWStore 6 9),
     (0b0010100101100010, .movLStore 6 9), (0b0110100101100000, .movBLoad 6 9), (0b0110100101100001, .movWLoad 6 9),
     (0b0110100101100010, .movLLoad 6 9), (0b0010100101100100, .movBStoreDec 6 9),
     (0b0010100101100101, .movWStoreDec 6 9), (0b0010100101100110, .movLStoreDec 6 9),
     (0b0110100101100100, .movBLoadInc 6 9), (0b0110100101100101, .movWLoadInc 6 9),
     (0b0110100101100110, .movLLoadInc 6 9), (0b1000000010011100, .movBStoreDisp 9 0xC),
     (0b1000000110011100, .movWStoreDisp 9 0xC), (0b0001100101101100, .movLStoreDisp 6 9 0xC),
     (0b1000010001101100, .movBLoadDisp 6 0xC)] = true := by decide

theorem test_decode_data_transfer_2 : decodesTo
    [(0b1000010101101100, .movWLoadDisp 6 0xC), (0b0101100101101100, .movLLoadDisp 6 9 0xC),
     (0b0000100101100100, .movBStoreIdx 6 9), (0b0000100101100101, .movWStoreIdx 6 9),
     (0b0000100101100110, .movLStoreIdx 6 9), (0b0000100101101100, .movBLoadIdx 6 9),
     (0b0000100101101101, .movWLoadIdx 6 9), (0b0000100101101110, .movLLoadIdx 6 9),
     (0b1100000010011100, .movBStoreGbr 0x9C), (0b1100000110011100, .movWStoreGbr 0x9C),
     (0b1100001010011100, .movLStoreGbr 0x9C), (0b1100010010011100, .movBLoadGbr 0x9C),
     (0b1100010110011100, .movWLoadGbr 0x9C), (0b1100011010011100, .movLLoadGbr 0x9C),
     (0b1100011110011100, .mova 0x9C), (0b0000100100101001, .movt 9), (0b0110100101101000, .swapB 6 9),
     (0b0110100101101001, .swapW 6 9), (0b0010100101101101, .xtrct 6 9)] = true := by decide

theorem test_decode_arithmetic_1 : decodesTo
    [(0b0011100101101100, .addReg 6 9), (0b0111100110100101, .addImm 9 0xA5), (0b0011100101101110, .addc 6 9),
     (0b0011100101101111, .addv 6 9), (0b1000100010100101, .cmpEqImm 0xA5), (0b0011100101100000, .cmpEq 6 9),
     (0b0011100101100010, .cmpHs 6 9), (0b0011100101100011, .cmpGe 6 9), (0b0011100101100110, .cmpHi 6 9),
     (0b0011100101100111, .cmpGt 6 9), (0b0100100100010101, .cmpPl 9), (0b0100100100010001, .cmpPz 9),
     (0b0010100101101100, .cmpStr 6 9), (0b0011100101100100, .div1 6 9), (0b0010100101100111, .div0s 6 9),
     (0b0000000000011001, .div0u), (0b0011100101101101, .dmulsL 6 9), (0b0011100101100101, .dmuluL 6 9),
     (0b0100100100010000, .dt 9), (0b0110100101101110, .extsB 6 9)] = true := by decide

theorem test_decode_arithmetic_2 : decodesTo
    [(0b0110100101101111, .extsW 6 9), (0b0110100101101100, .extuB 6 9), (0b0110100101101101, .extuW 6 9),
     (0b0000100101101111, .macL 6 9), (0b0100100101101111, .macW 6 9), (0b0000100101100111, .mulL 6 9),
     (0b0010100101101111, .mulsW 6 9), (0b0010100101101110, .muluW 6 9), (0b0110100101101011, .neg 6 9),
     (0b0110100101101010, .negc 6 9), (0b0011100101101000, .sub 6 9), (0b0011100101101010, .subc 6 9),
     (0b0011100101101011, .subv 6 9)] = true := by decide

theorem test_decode_logic : decodesTo
    [(0b0010100101101001, .andReg 6 9), (0b1100100110100101, .andImm 0xA5), (0b1100110110100101, .andB 0xA5),
     (0b0110100101100111, .notReg 6 9), (0b0010100101101011, .orReg 6 9), (0b1100101110100101, .orImm 0xA5),
     (0b1100111110100101, .orB 0xA5), (0b0100100100011011, .tasB 9), (0b0010100101101000, .tstReg 6 9),
     (0b1100100010100101, .tstImm 0xA5), (0b1100110010100101, .tstB 0xA5), (0b0010100101101010, .xorReg 6 9),
     (0b1100101010100101, .xorImm 0xA5), (0b1100111010100101, .xorB 0xA5)] = true := by decide

theorem test_decode_shift : decodesTo
    [(0b0100100100000100, .rotl 9), (0b0100100100000101, .rotr 9), (0b0100100100100100, .rotcl 9),
     (0b0100100100100101, .rotcr 9), (0b0100100100100000, .shal 9), (0b0100100100100001, .shar 9),
     (0b0100100100000000, .shll 9), (0b0100100100000001, .shlr 9), (0b0100100100001000, .shll2 9),
     (0b0100100100001001, .shlr2 9), (0b0100100100011000, .shll8 9), (0b0100100100011001, .shlr8 9),
     (0b0100100100101000, .shll16 9), (0b0100100100101001, .shlr16 9)] = true := by decide

theorem test_decode_branch : decodesTo
    [(0b1000101110011100, .bf 0x9C), (0b1000111110011100, .bfs 0x9C), (0b1000100110011100, .bt 0x9C),
     (0b1000110110011100, .bts 0x9C), (0b1010100111000101, .bra 0x9C5), (0b0000011000100011, .braf 6),
     (0b1011100111000101, .bsr 0x9C5), (0b0000011000000011, .bsrf 6), (0b0100011000101011, .jmp 6),
     (0b0100011000001011, .jsr 6), (0b0000000000001011, .rts)] = true := by decide

theorem test_decode_system_1 : decodesTo
    [(0b0000000000001000, .clrt), (0b0000000000101000, .clrmac), (0b0100011000001110, .ldcSr 6),
     (0b0100011000011110, .ldcGbr 6), (0b0100011000101110, .ldcVbr 6), (0b0100011000000111, .ldcLSr 6),
     (0b0100011000010111, .ldcLGbr 6), (0b0100011000100111, .ldcLVbr 6), (0b0100011000001010, .ldsMach 6),
     (0b0100011000011010, .ldsMacl 6), (0b0100011000101010, .ldsPr 6), (0b0100011000000110, .ldsLMach 6),
     (0b0100011000010110, .ldsLMacl 6), (0b0100011000100110, .ldsLPr 6), (0b0000000000001001, .nop),
     (0b0000000000011000, .sett), (0b0000100100000010, .stcSr 9), (0b0000100100010010, .stcGbr 9),
     (0b0000100100100010, .stcVbr 9), (0b0100100100000011, .stcLSr 9)] = true := by decide

theorem test_decode_system_2 : decodesTo
    [(0b0100100100010011, .stcLGbr 9), (0b0100100100100011, .stcLVbr 9), (0b0000100100001010, .stsMach 9),
     (0b0000100100011010, .stsMacl 9), (0b0000000000101011, .rte), (0b0000100100101010, .stsPr 9),
     (0b0100100100000010, .stsLMach 9), (0b0100100100010010, .stsLMacl 9), (0b0100100100100010, .stsLPr 9),
     (0b0000000000011011, .sleep), (0b1100001110100101, .trapa 0xA5)] = true := by decide

/-- R118, R121, S1 of 95_test_vectors: opcodes of no row decode to `ILLEGAL`. -/
theorem test_decode_illegal :
    ([0x0108, 0xFFFF, 0x0000, 0x0119, 0x400C, 0x8200, 0xF000, 0x010B] : List Half).all
      (fun w => decide (decodeWord w = none)) = true := by decide

/-- The two bytes are stored most significant first (R111). -/
theorem test_decode_bytes :
    (match decode [0xE1, 0xFF, 0x00, 0x09] with
     | .instr (.movImm 1 0xFF) rest => decide (rest = [0x00, 0x09])
     | _ => false) = true := by decide

theorem test_decode_table_word :
    decodeTableWord 16 0x312C = some (.addReg 2 1) ∧ decodeTableWord 16 0xFFFF = none := by decide

theorem test_fetch_word :
    (match step (State.reset.withFetchWord 16 0x312C) with
     | .next t => decide (t.pc = (State.reset.withFetchWord 16 0x312C).pc + 2)
     | _ => false) = true := by decide

theorem test_fetch_word_delayed_branch :
    (match step (State.reset.withFetchWord 16 0xA000) with
     | .next t => decide (t.pc = (State.reset.withFetchWord 16 0xA000).pc + 4)
     | _ => false) = true := by decide

/-! ### Well-formedness: each check refuses an ill-formed term -/

/-- An instruction that writes `pc` in a slot (R293, R511). -/
theorem test_slot_refuses_branch : slotWellFormed Config.defaultParams (some (.bra 0)) = false := by decide

/-- An illegal opcode in a slot (R293). -/
theorem test_slot_refuses_illegal : slotWellFormed Config.defaultParams none = false := by decide

/-- A PC-relative form in a slot under `PCREL_IN_SLOT = refuse` (R292), and its acceptance under the other settings. -/
theorem test_slot_refuses_pc_relative :
    slotWellFormed Config.defaultParams (some (.mova 0)) = false ∧
    slotWellFormed { Config.defaultParams with pcrelInSlot := .slotBased } (some (.mova 0)) = true := by decide

/-- A delayed branch followed by what may not stand in its slot; anything may follow another instruction. -/
theorem test_pair_refuses_branch_after_branch :
    wellFormedPair Config.defaultParams (.jmp 1) (some (.rts)) = false ∧
    wellFormedPair Config.defaultParams (.jmp 1) (some .nop) = true ∧
    wellFormedPair Config.defaultParams .nop none = true := by decide

/-! ### Single steps: the rows of 95_test_vectors 2.1 to 2.6 -/

/-- R141: `MOV #-1,R1`. -/
theorem test_movImm_1 : runs [0xE1FF] [] [r 1 0xFFFFFFFF, pc 0x06000102] = true := by decide

/-- R141: `MOV #127,R1`. -/
theorem test_movImm_2 : runs [0xE17F] [] [r 1 0x0000007F, pc 0x06000102] = true := by decide

/-- R142: `MOV.W @(4,PC),R1`. -/
theorem test_movWLoadPc_1 : runs [0x9102] [mW 0x06000108 0x8001] [r 1 0xFFFF8001, pc 0x06000102] = true := by decide

/-- R143: `MOV.L @(4,PC),R1 at pc%4=0`. -/
theorem test_movLLoadPc_1 : runs [0xD101] [mL 0x06000108 0xDEADBEEF] [r 1 0xDEADBEEF, pc 0x06000102] = true := by decide

/-- R144: `MOV R2,R1`. -/
theorem test_movReg_1 : runs [0x6123] [r 2 0x12345678] [r 1 0x12345678, pc 0x06000102] = true := by decide

/-- R145: `MOV.B R2,@R1`. -/
theorem test_movBStore_1 :
    runs [0x2120] [r 1 0x06001001, r 2 0x123456AB] [mB 0x06001001 0xAB, pc 0x06000102] = true := by decide

/-- R146: `MOV.W R2,@R1`. -/
theorem test_movWStore_1 :
    runs [0x2121] [r 1 0x06001000, r 2 0x1234BEEF] [mW 0x06001000 0xBEEF, pc 0x06000102] = true := by decide

/-- R146: `MOV.W R2,@R1 (odd)`. -/
theorem test_movWStore_2 : stops [0x2121] [r 1 0x06001001, r 2 0x1234BEEF] .addressError = true := by decide

/-- R147: `MOV.L R2,@R1`. -/
theorem test_movLStore_1 :
    runs [0x2122] [r 1 0x06001000, r 2 0x11223344] [mL 0x06001000 0x11223344, pc 0x06000102] = true := by decide

/-- R147: `MOV.L R2,@R1 (addr%4=2)`. -/
theorem test_movLStore_2 : stops [0x2122] [r 1 0x06001002, r 2 0x11223344] .addressError = true := by decide

/-- R148: `MOV.B @R2,R1`. -/
theorem test_movBLoad_1 :
    runs [0x6120] [r 2 0x06001000, mB 0x06001000 0x80] [r 1 0xFFFFFF80, pc 0x06000102] = true := by decide

/-- R149: `MOV.W @R2,R1`. -/
theorem test_movWLoad_1 :
    runs [0x6121] [r 2 0x06001000, mW 0x06001000 0x8000] [r 1 0xFFFF8000, pc 0x06000102] = true := by decide

/-- R150: `MOV.L @R2,R1`. -/
theorem test_movLLoad_1 :
    runs [0x6122] [r 2 0x06001000, mL 0x06001000 0x11223344] [r 1 0x11223344, pc 0x06000102] = true := by decide

/-- R148: `MOV.B @R2,R1 (byte 3 of longword)`. -/
theorem test_movBLoad_2 :
    runs [0x6120] [r 2 0x06001003, mL 0x06001000 0x11223344] [r 1 0x00000044, pc 0x06000102] = true := by decide

/-- R153: `MOV.L R2,@-R15`. -/
theorem test_movLStoreDec_1 :
    runs [0x2F26] [r 15 0x0603FF00, r 2 0xCAFEF00D] [r 15 0x0603FEFC, mL 0x0603FEFC 0xCAFEF00D, pc 0x06000102] = true := by decide

/-- R153: `MOV.L R15,@-R15 (n=m)`. -/
theorem test_movLStoreDec_2 :
    runs [0x2FF6] [r 15 0x0603FF00] [r 15 0x0603FEFC, mL 0x0603FEFC 0x0603FF00, pc 0x06000102] = true := by decide

/-- R151: `MOV.B R2,@-R1`. -/
theorem test_movBStoreDec_1 :
    runs [0x2124] [r 1 0x06001010, r 2 0x00000055] [r 1 0x0600100F, mB 0x0600100F 0x55, pc 0x06000102] = true := by decide

/-- R156: `MOV.L @R15+,R1`. -/
theorem test_movLLoadInc_1 :
    runs [0x61F6] [r 15 0x06001000, mL 0x06001000 0x01020304] [r 1 0x01020304, r 15 0x06001004, pc 0x06000102] = true := by decide

/-- R156: `MOV.L @R1+,R1 (n=m)`. -/
theorem test_movLLoadInc_2 :
    runs [0x6116] [r 1 0x06001000, mL 0x06001000 0x01020304] [r 1 0x01020304, pc 0x06000102] = true := by decide

/-- R155: `MOV.W @R2+,R1`. -/
theorem test_movWLoadInc_1 :
    runs [0x6125] [r 2 0x06001000, mW 0x06001000 0xFFFE] [r 1 0xFFFFFFFE, r 2 0x06001002, pc 0x06000102] = true := by decide

/-- R157: `MOV.B R0,@(3,R1)`. -/
theorem test_movBStoreDisp_1 :
    runs [0x8013] [r 0 0x000000AB, r 1 0x06001000] [mB 0x06001003 0xAB, pc 0x06000102] = true := by decide

/-- R158: `MOV.W R0,@(6,R1)`. -/
theorem test_movWStoreDisp_1 :
    runs [0x8113] [r 0 0x0000BEEF, r 1 0x06001000] [mW 0x06001006 0xBEEF, pc 0x06000102] = true := by decide

/-- R159: `MOV.L R2,@(60,R1)`. -/
theorem test_movLStoreDisp_1 :
    runs [0x112F] [r 2 0x11223344, r 1 0x06001000] [mL 0x0600103C 0x11223344, pc 0x06000102] = true := by decide

/-- R160: `MOV.B @(3,R2),R0`. -/
theorem test_movBLoadDisp_1 :
    runs [0x8423] [r 2 0x06001000, mB 0x06001003 0xF0] [r 0 0xFFFFFFF0, pc 0x06000102] = true := by decide

/-- R162: `MOV.L @(8,R2),R1`. -/
theorem test_movLLoadDisp_1 :
    runs [0x5122] [r 2 0x06001000, mL 0x06001008 0x55667788] [r 1 0x55667788, pc 0x06000102] = true := by decide

/-- R165: `MOV.L R2,@(R0,R1)`. -/
theorem test_movLStoreIdx_1 :
    runs [0x0126] [r 0 0x00000010, r 1 0x06001000, r 2 0xA1B2C3D4] [mL 0x06001010 0xA1B2C3D4, pc 0x06000102] = true := by decide

/-- R167: `MOV.W @(R0,R2),R1`. -/
theorem test_movWLoadIdx_1 :
    runs [0x012D] [r 0 0xFFFFFFFE, r 2 0x06001002, mW 0x06001000 0x8123] [r 1 0xFFFF8123, pc 0x06000102] = true := by decide

/-- R171: `MOV.L R0,@(1020,GBR)`. -/
theorem test_movLStoreGbr_1 :
    runs [0xC2FF] [r 0 0x12345678, gbr 0x06001000] [mL 0x060013FC 0x12345678, pc 0x06000102] = true := by decide

/-- R172: `MOV.B @(255,GBR),R0`. -/
theorem test_movBLoadGbr_1 :
    runs [0xC4FF] [gbr 0x06001000, mB 0x060010FF 0x81] [r 0 0xFFFFFF81, pc 0x06000102] = true := by decide

/-- R175: `MOVA @(8,PC),R0 at pc%4=0`. -/
theorem test_mova_1 : runs [0xC702] [] [r 0 0x0600010C, pc 0x06000102] = true := by decide

/-- R176: `MOVT R1 (T=1)`. -/
theorem test_movt_1 : runs [0x0129] [r 1 0xFFFFFFFF, sr 0x0F1] [r 1 0x00000001, pc 0x06000102] = true := by decide

/-- R177: `SWAP.B R2,R1`. -/
theorem test_swapB_1 : runs [0x6128] [r 2 0x12345678] [r 1 0x12347856, pc 0x06000102] = true := by decide

/-- R178: `SWAP.W R2,R1`. -/
theorem test_swapW_1 : runs [0x6129] [r 2 0x12345678] [r 1 0x56781234, pc 0x06000102] = true := by decide

/-- R179: `XTRCT R2,R1`. -/
theorem test_xtrct_1 : runs [0x212D] [r 2 0x12345678, r 1 0x9ABCDEF0] [r 1 0x56789ABC, pc 0x06000102] = true := by decide

/-- R201: `ADD R2,R1 (wrap)`. -/
theorem test_addReg_1 : runs [0x312C] [r 1 0xFFFFFFFF, r 2 0x00000002] [r 1 0x00000001, pc 0x06000102] = true := by decide

/-- R202: `ADD #-128,R1`. -/
theorem test_addImm_1 : runs [0x7180] [r 1 0x00000100] [r 1 0x00000080, pc 0x06000102] = true := by decide

/-- R203: `ADDC R2,R1 (T=1, carry out)`. -/
theorem test_addc_1 :
    runs [0x312E] [r 1 0xFFFFFFFF, r 2 0x00000000, sr 0x0F1] [r 1 0x00000000, pc 0x06000102] = true := by decide

/-- R203: `ADDC R2,R1 (T=0)`. -/
theorem test_addc_2 : runs [0x312E] [r 1 0x00000001, r 2 0x00000002] [r 1 0x00000003, pc 0x06000102] = true := by decide

/-- R204: `ADDV R2,R1 (overflow)`. -/
theorem test_addv_1 :
    runs [0x312F] [r 1 0x7FFFFFFF, r 2 0x00000001] [r 1 0x80000000, fT true, pc 0x06000102] = true := by decide

/-- R204: `ADDV R2,R1 (no overflow)`. -/
theorem test_addv_2 :
    runs [0x312F] [r 1 0xFFFFFFFF, r 2 0x00000001, sr 0x0F1] [r 1 0x00000000, fT false, pc 0x06000102] = true := by decide

/-- R205: `CMP/EQ #-1,R0`. -/
theorem test_cmpEqImm_1 : runs [0x88FF] [r 0 0xFFFFFFFF] [fT true, pc 0x06000102] = true := by decide

/-- R206: `CMP/EQ R2,R1`. -/
theorem test_cmpEq_1 :
    runs [0x3120] [r 1 0x00000001, r 2 0x00000002, sr 0x0F1] [fT false, pc 0x06000102] = true := by decide

/-- R208: `CMP/GE R2,R1 (signed)`. -/
theorem test_cmpGe_1 : runs [0x3123] [r 1 0x80000000, r 2 0x00000001] [pc 0x06000102] = true := by decide

/-- R207: `CMP/HS R2,R1 (unsigned)`. -/
theorem test_cmpHs_1 : runs [0x3122] [r 1 0x80000000, r 2 0x00000001] [fT true, pc 0x06000102] = true := by decide

/-- R210: `CMP/GT R2,R1 (equal)`. -/
theorem test_cmpGt_1 :
    runs [0x3127] [r 1 0x00000005, r 2 0x00000005, sr 0x0F1] [fT false, pc 0x06000102] = true := by decide

/-- R209: `CMP/HI R2,R1`. -/
theorem test_cmpHi_1 : runs [0x3126] [r 1 0xFFFFFFFF, r 2 0x00000000] [fT true, pc 0x06000102] = true := by decide

/-- R211: `CMP/PL R1 (zero)`. -/
theorem test_cmpPl_1 : runs [0x4115] [r 1 0x00000000, sr 0x0F1] [fT false, pc 0x06000102] = true := by decide

/-- R212: `CMP/PZ R1 (zero)`. -/
theorem test_cmpPz_1 : runs [0x4111] [r 1 0x00000000] [fT true, pc 0x06000102] = true := by decide

/-- R213: `CMP/STR R2,R1`. -/
theorem test_cmpStr_1 : runs [0x212C] [r 1 0x11223344, r 2 0xAA22BBCC] [fT true, pc 0x06000102] = true := by decide

/-- R213: `CMP/STR R2,R1 (no byte equal)`. -/
theorem test_cmpStr_2 :
    runs [0x212C] [r 1 0x11223344, r 2 0x44112233, sr 0x0F1] [fT false, pc 0x06000102] = true := by decide

/-- R215: `DIV0S R2,R1`. -/
theorem test_div0s_1 : runs [0x2127] [r 1 0x80000000, r 2 0x00000001] [fT true, fQ true, pc 0x06000102] = true := by decide

/-- R216: `DIV0U`. -/
theorem test_div0u_1 : runs [0x0019] [sr 0x3F3] [fT false, fQ false, fM false, pc 0x06000102] = true := by decide

/-- R214: `DIV1 R2,R1 (Q=M=0,T=0)`. -/
theorem test_div1_1 :
    runs [0x3124] [r 1 0x00000008, r 2 0x00000003] [r 1 0x0000000D, fT true, pc 0x06000102] = true := by decide

/-- R214: `DIV1 R2,R1 (Q=1,M=0,T=0)`. -/
theorem test_div1_3 :
    runs [0x3124] [r 1 0xFFFFFFFE, r 2 0x00000003, sr 0x1F0] [r 1 0xFFFFFFFF, pc 0x06000102] = true := by decide

/-- R217: `DMULS.L R2,R1`. -/
theorem test_dmulsL_1 :
    runs [0x312D] [r 1 0xFFFFFFFF, r 2 0xFFFFFFFF] [mach 0x00000000, macl 0x00000001, pc 0x06000102] = true := by decide

/-- R217: `DMULS.L R2,R1 (min*min)`. -/
theorem test_dmulsL_2 :
    runs [0x312D] [r 1 0x80000000, r 2 0x80000000] [mach 0x40000000, macl 0x00000000, pc 0x06000102] = true := by decide

/-- R218: `DMULU.L R2,R1`. -/
theorem test_dmuluL_1 :
    runs [0x3125] [r 1 0xFFFFFFFF, r 2 0xFFFFFFFF] [mach 0xFFFFFFFE, macl 0x00000001, pc 0x06000102] = true := by decide

/-- R219: `DT R1 (to zero)`. -/
theorem test_dt_1 : runs [0x4110] [r 1 0x00000001] [r 1 0x00000000, fT true, pc 0x06000102] = true := by decide

/-- R219: `DT R1 (from zero)`. -/
theorem test_dt_2 : runs [0x4110] [r 1 0x00000000, sr 0x0F1] [r 1 0xFFFFFFFF, fT false, pc 0x06000102] = true := by decide

/-- R220: `EXTS.B R2,R1`. -/
theorem test_extsB_1 : runs [0x612E] [r 2 0x12345680] [r 1 0xFFFFFF80, pc 0x06000102] = true := by decide

/-- R221: `EXTS.W R2,R1`. -/
theorem test_extsW_1 : runs [0x612F] [r 2 0x12348000] [r 1 0xFFFF8000, pc 0x06000102] = true := by decide

/-- R222: `EXTU.B R2,R1`. -/
theorem test_extuB_1 : runs [0x612C] [r 2 0x123456FF] [r 1 0x000000FF, pc 0x06000102] = true := by decide

/-- R223: `EXTU.W R2,R1`. -/
theorem test_extuW_1 : runs [0x612D] [r 2 0x1234FFFF] [r 1 0x0000FFFF, pc 0x06000102] = true := by decide

/-- R224: `MAC.L @R2+,@R1+ (S=1 saturate)`. -/
theorem test_macL_2 :
    runs [0x012F] [r 1 0x06001000, r 2 0x06001100, mach 0x00000000, macl 0x00000000, sr 0x0F2, mL 0x06001000 0x7FFFFFFF, mL 0x06001100 0x7FFFFFFF] [r 1 0x06001004, r 2 0x06001104, mach 0x00007FFF, macl 0xFFFFFFFF, pc 0x06000102] = true := by decide

/-- R224: `MAC.L @R1+,@R1+ (n=m)`. -/
theorem test_macL_same_register :
    runs [0x011F] [r 1 0x06001000, mach 0x00000000, macl 0x00000000, mL 0x06001000 0x00000005, mL 0x06001004 0x00000007] [r 1 0x06001008, macl 0x00000023, pc 0x06000102] = true := by decide

/-- R225: `MAC.W @R2+,@R1+ (S=0)`. -/
theorem test_macW_1 :
    runs [0x412F] [r 1 0x06001000, r 2 0x06001100, mach 0x00000000, macl 0x0000000A, mW 0x06001000 0xFFFE, mW 0x06001100 0x0003] [r 1 0x06001002, r 2 0x06001102, macl 0x00000004, pc 0x06000102] = true := by decide

/-- R225: `MAC.W @R2+,@R1+ (S=1 overflow)`. -/
theorem test_macW_2 :
    runs [0x412F] [r 1 0x06001000, r 2 0x06001100, mach 0x00000000, macl 0x7FFFFFFF, sr 0x0F2, mW 0x06001000 0x7FFF, mW 0x06001100 0x7FFF] [r 1 0x06001002, r 2 0x06001102, mach 0x00000001, pc 0x06000102] = true := by decide

/-- R226: `MUL.L R2,R1`. -/
theorem test_mulL_1 : runs [0x0127] [r 1 0x00010000, r 2 0x00010001] [macl 0x00010000, pc 0x06000102] = true := by decide

/-- R227: `MULS.W R2,R1`. -/
theorem test_mulsW_1 : runs [0x212F] [r 1 0x0000FFFF, r 2 0x00000002] [macl 0xFFFFFFFE, pc 0x06000102] = true := by decide

/-- R228: `MULU.W R2,R1`. -/
theorem test_muluW_1 : runs [0x212E] [r 1 0x0000FFFF, r 2 0x00000002] [macl 0x0001FFFE, pc 0x06000102] = true := by decide

/-- R229: `NEG R2,R1 (min)`. -/
theorem test_neg_1 : runs [0x612B] [r 2 0x80000000] [r 1 0x80000000, pc 0x06000102] = true := by decide

/-- R230: `NEGC R2,R1 (T=0, zero)`. -/
theorem test_negc_1 : runs [0x612A] [r 2 0x00000000] [r 1 0x00000000, pc 0x06000102] = true := by decide

/-- R230: `NEGC R2,R1 (T=1, zero)`. -/
theorem test_negc_2 : runs [0x612A] [r 2 0x00000000, sr 0x0F1] [r 1 0xFFFFFFFF, pc 0x06000102] = true := by decide

/-- R231: `SUB R2,R1 (wrap)`. -/
theorem test_sub_1 : runs [0x3128] [r 1 0x00000000, r 2 0x00000001] [r 1 0xFFFFFFFF, pc 0x06000102] = true := by decide

/-- R232: `SUBC R2,R1 (T=1)`. -/
theorem test_subc_1 :
    runs [0x312A] [r 1 0x00000000, r 2 0x00000000, sr 0x0F1] [r 1 0xFFFFFFFF, pc 0x06000102] = true := by decide

/-- R232: `SUBC R2,R1 (T=1, no borrow)`. -/
theorem test_subc_2 :
    runs [0x312A] [r 1 0x00000005, r 2 0x00000002, sr 0x0F1] [r 1 0x00000002, fT false, pc 0x06000102] = true := by decide

/-- R233: `SUBV R2,R1 (overflow)`. -/
theorem test_subv_1 :
    runs [0x312B] [r 1 0x80000000, r 2 0x00000001] [r 1 0x7FFFFFFF, fT true, pc 0x06000102] = true := by decide

/-- R233: `SUBV R2,R1 (no overflow)`. -/
theorem test_subv_2 :
    runs [0x312B] [r 1 0x00000005, r 2 0x00000007, sr 0x0F1] [r 1 0xFFFFFFFE, fT false, pc 0x06000102] = true := by decide

/-- R251: `AND R2,R1`. -/
theorem test_andReg_1 : runs [0x2129] [r 1 0xFF00FF00, r 2 0x0FF00FF0] [r 1 0x0F000F00, pc 0x06000102] = true := by decide

/-- R252: `AND #0x0F,R0`. -/
theorem test_andImm_1 : runs [0xC90F] [r 0 0x123456FF] [r 0 0x0000000F, pc 0x06000102] = true := by decide

/-- R253: `AND.B #0x0F,@(R0,GBR)`. -/
theorem test_andB_1 :
    runs [0xCD0F] [r 0 0x00000010, gbr 0x06001000, mB 0x06001010 0xF3] [mB 0x06001010 0x03, pc 0x06000102] = true := by decide

/-- R254: `NOT R2,R1`. -/
theorem test_notReg_1 : runs [0x6127] [r 2 0x0F0F0F0F] [r 1 0xF0F0F0F0, pc 0x06000102] = true := by decide

/-- R255: `OR R2,R1`. -/
theorem test_orReg_1 : runs [0x212B] [r 1 0xFF00FF00, r 2 0x0FF00FF0] [r 1 0xFFF0FFF0, pc 0x06000102] = true := by decide

/-- R256: `OR #0x80,R0`. -/
theorem test_orImm_1 : runs [0xCB80] [r 0 0x12345600] [r 0 0x12345680, pc 0x06000102] = true := by decide

/-- R257: `OR.B #0x0C,@(R0,GBR)`. -/
theorem test_orB_1 :
    runs [0xCF0C] [r 0 0x00000010, gbr 0x06001000, mB 0x06001010 0xF3] [mB 0x06001010 0xFF, pc 0x06000102] = true := by decide

/-- R258: `TAS.B @R1 (byte 0)`. -/
theorem test_tasB_1 :
    runs [0x411B] [r 1 0x06001000, mB 0x06001000 0x00] [fT true, mB 0x06001000 0x80, pc 0x06000102] = true := by decide

/-- R258: `TAS.B @R1 (byte 0x80)`. -/
theorem test_tasB_2 :
    runs [0x411B] [r 1 0x06001000, sr 0x0F1, mB 0x06001000 0x80] [fT false, mB 0x06001000 0x80, pc 0x06000102] = true := by decide

/-- R259: `TST R2,R1`. -/
theorem test_tstReg_1 : runs [0x2128] [r 1 0xFF00FF00, r 2 0x00FF00FF] [fT true, pc 0x06000102] = true := by decide

/-- R260: `TST #1,R0`. -/
theorem test_tstImm_1 : runs [0xC801] [r 0 0x00000003, sr 0x0F1] [fT false, pc 0x06000102] = true := by decide

/-- R261: `TST.B #0x0C,@(R0,GBR)`. -/
theorem test_tstB_1 :
    runs [0xCC0C] [r 0 0x00000010, gbr 0x06001000, mB 0x06001010 0xF3] [fT true, pc 0x06000102] = true := by decide

/-- R262: `XOR R1,R1`. -/
theorem test_xorReg_1 : runs [0x211A] [r 1 0xDEADBEEF] [r 1 0x00000000, pc 0x06000102] = true := by decide

/-- R263: `XOR #0xFF,R0`. -/
theorem test_xorImm_1 : runs [0xCAFF] [r 0 0x123456AA] [r 0 0x12345655, pc 0x06000102] = true := by decide

/-- R264: `XOR.B #0xFF,@(R0,GBR)`. -/
theorem test_xorB_1 :
    runs [0xCEFF] [r 0 0x00000010, gbr 0x06001000, mB 0x06001010 0xF3] [mB 0x06001010 0x0C, pc 0x06000102] = true := by decide

/-- R271: `ROTL R1`. -/
theorem test_rotl_1 : runs [0x4104] [r 1 0x80000001] [r 1 0x00000003, fT true, pc 0x06000102] = true := by decide

/-- R272: `ROTR R1`. -/
theorem test_rotr_1 : runs [0x4105] [r 1 0x80000001] [r 1 0xC0000000, fT true, pc 0x06000102] = true := by decide

/-- R275: `SHAL R1`. -/
theorem test_shal_1 : runs [0x4120] [r 1 0x80000001] [r 1 0x00000002, fT true, pc 0x06000102] = true := by decide

/-- R276: `SHAR R1`. -/
theorem test_shar_1 : runs [0x4121] [r 1 0x80000001] [r 1 0xC0000000, fT true, pc 0x06000102] = true := by decide

/-- R277: `SHLL R1`. -/
theorem test_shll_1 : runs [0x4100] [r 1 0x80000001] [r 1 0x00000002, fT true, pc 0x06000102] = true := by decide

/-- R278: `SHLR R1`. -/
theorem test_shlr_1 : runs [0x4101] [r 1 0x80000001] [r 1 0x40000000, fT true, pc 0x06000102] = true := by decide

/-- R273: `ROTCL R1 (T=1)`. -/
theorem test_rotcl_1 :
    runs [0x4124] [r 1 0x40000000, sr 0x0F1] [r 1 0x80000001, fT false, pc 0x06000102] = true := by decide

/-- R273: `ROTCL R1 (T=0)`. -/
theorem test_rotcl_2 : runs [0x4124] [r 1 0x80000000] [r 1 0x00000000, fT true, pc 0x06000102] = true := by decide

/-- R274: `ROTCR R1 (T=1)`. -/
theorem test_rotcr_1 :
    runs [0x4125] [r 1 0x00000002, sr 0x0F1] [r 1 0x80000001, fT false, pc 0x06000102] = true := by decide

/-- R274: `ROTCR R1 (T=0)`. -/
theorem test_rotcr_2 : runs [0x4125] [r 1 0x00000001] [r 1 0x00000000, fT true, pc 0x06000102] = true := by decide

/-- R276: `SHAR R1 (-1)`. -/
theorem test_shar_2 : runs [0x4121] [r 1 0xFFFFFFFF] [fT true, pc 0x06000102] = true := by decide

/-- R279: `SHLL2 R1 (T=1 kept)`. -/
theorem test_shll2_1 : runs [0x4108] [r 1 0x92345678, sr 0x0F1] [r 1 0x48D159E0, pc 0x06000102] = true := by decide

/-- R280: `SHLR2 R1 (T=1 kept)`. -/
theorem test_shlr2_1 : runs [0x4109] [r 1 0x92345678, sr 0x0F1] [r 1 0x248D159E, pc 0x06000102] = true := by decide

/-- R281: `SHLL8 R1 (T=1 kept)`. -/
theorem test_shll8_1 : runs [0x4118] [r 1 0x92345678, sr 0x0F1] [r 1 0x34567800, pc 0x06000102] = true := by decide

/-- R282: `SHLR8 R1 (T=1 kept)`. -/
theorem test_shlr8_1 : runs [0x4119] [r 1 0x92345678, sr 0x0F1] [r 1 0x00923456, pc 0x06000102] = true := by decide

/-- R283: `SHLL16 R1 (T=1 kept)`. -/
theorem test_shll16_1 : runs [0x4128] [r 1 0x92345678, sr 0x0F1] [r 1 0x56780000, pc 0x06000102] = true := by decide

/-- R284: `SHLR16 R1 (T=1 kept)`. -/
theorem test_shlr16_1 : runs [0x4129] [r 1 0x92345678, sr 0x0F1] [r 1 0x00009234, pc 0x06000102] = true := by decide

/-- R295: `BF +8 (T=0 taken)`. -/
theorem test_bf_1 : runs [0x8B04] [] [pc 0x0600010C] = true := by decide

/-- R295: `BF +8 (T=1 not taken)`. -/
theorem test_bf_2 : runs [0x8B04] [sr 0x0F1] [pc 0x06000102] = true := by decide

/-- R297: `BT d=0xFD (T=1 taken, backwards)`. -/
theorem test_bt_1 : runs [0x89FD] [sr 0x0F1] [pc 0x060000FE] = true := by decide

/-- R298: `BT/S +8 ; ADD #1,R1 (T=1 taken)`. -/
theorem test_bts_1 : runs [0x8D04, 0x7101] [r 1 0x00000000, sr 0x0F1] [r 1 0x00000001, pc 0x0600010C] = true := by decide

/-- R298: `BT/S +8 ; ADD #1,R1 (T=0 not taken)`. -/
theorem test_bts_2 : runs [0x8D04, 0x7101] [r 1 0x00000000] [r 1 0x00000001, pc 0x06000104] = true := by decide

/-- R296: `BF/S +8 ; SETT (T=0: taken, slot sets T)`. -/
theorem test_bfs_1 : runs [0x8F04, 0x0018] [] [fT true, pc 0x0600010C] = true := by decide

/-- R299: `BRA d=0x800 (most negative)`. -/
theorem test_bra_1 : runs [0xA800, 0x0009] [] [pc 0x05FFF104] = true := by decide

/-- R299: `BRA d=0x7FF (most positive)`. -/
theorem test_bra_2 : runs [0xA7FF, 0x0009] [] [pc 0x06001102] = true := by decide

/-- R300: `BRAF R1 ; NOP`. -/
theorem test_braf_1 : runs [0x0123, 0x0009] [r 1 0x00000100] [pc 0x06000204] = true := by decide

/-- R300: `BRAF R1 ; MOV #0,R1 (slot rewrites R1)`. -/
theorem test_braf_2 : runs [0x0123, 0xE100] [r 1 0x00000100] [r 1 0x00000000, pc 0x06000204] = true := by decide

/-- R301: `BSR +0x20 ; STS PR,R2 (slot sees new PR)`. -/
theorem test_bsr_1 :
    runs [0xB010, 0x022A] [pr 0x00000000, r 2 0x00000000] [r 2 0x06000104, pr 0x06000104, pc 0x06000124] = true := by decide

/-- R302: `BSRF R1 ; NOP`. -/
theorem test_bsrf_1 : runs [0x0103, 0x0009] [r 1 0xFFFFFFFC] [pr 0x06000104, pc 0x06000100] = true := by decide

/-- R303: `JMP @R1 ; NOP`. -/
theorem test_jmp_1 : runs [0x412B, 0x0009] [r 1 0x06002000] [pc 0x06002000] = true := by decide

/-- R304: `JSR @R1 ; MOV R1,R2`. -/
theorem test_jsr_1 :
    runs [0x410B, 0x6213] [r 1 0x06002000] [r 2 0x06002000, pr 0x06000104, pc 0x06002000] = true := by decide

/-- R305: `RTS ; LDS R3,PR (slot rewrites PR)`. -/
theorem test_rts_1 :
    runs [0x000B, 0x432A] [pr 0x06002000, r 3 0x06003000] [pr 0x06003000, pc 0x06002000] = true := by decide

/-- R303: `JMP @R1 (odd target)`. -/
theorem test_jmp_2 : runs [0x412B, 0x0009] [r 1 0x06002001] [pc 0x06002001] = true := by decide

/-- R299: `BRA ; BRA (branch in slot)`. -/
theorem test_slot_branch_faults : stops [0xA000, 0xA000] [] .slotIllegal = true := by decide

/-- R299: `BRA ; MOV.L @(0,PC),R1 (PC-relative in slot)`. -/
theorem test_slot_pc_relative_refused : stops [0xA010, 0xD100] [] .pcRelInSlot = true := by decide

/-- R303: `JMP @R1 ; 0xFFFF (illegal in slot)`. -/
theorem test_slot_illegal_faults : stops [0x412B, 0xFFFF] [r 1 0x06002000] .slotIllegal = true := by decide

/-- R321: `CLRT`. -/
theorem test_clrt_1 : runs [0x0008] [sr 0x3F3] [fT false, pc 0x06000102] = true := by decide

/-- R336: `SETT`. -/
theorem test_sett_1 : runs [0x0018] [] [fT true, pc 0x06000102] = true := by decide

/-- R322: `CLRMAC`. -/
theorem test_clrmac_1 :
    runs [0x0028] [mach 0x12345678, macl 0x9ABCDEF0] [mach 0x00000000, macl 0x00000000, pc 0x06000102] = true := by decide

/-- R335: `NOP`. -/
theorem test_nop_1 : runs [0x0009] [] [pc 0x06000102] = true := by decide

/-- R323: `LDC R1,SR (masked)`. -/
theorem test_ldcSr_1 :
    runs [0x410E] [r 1 0xFFFFFFFF] [fT true, fS true, fQ true, fM true, pc 0x06000102] = true := by decide

/-- R323: `LDC R1,SR (zero)`. -/
theorem test_ldcSr_2 : runs [0x410E] [r 1 0x00000000] [imask 0x0, pc 0x06000102] = true := by decide

/-- R324: `LDC R1,GBR`. -/
theorem test_ldcGbr_1 : runs [0x411E] [r 1 0xFFFFFFFF] [gbr 0xFFFFFFFF, pc 0x06000102] = true := by decide

/-- R325: `LDC R1,VBR`. -/
theorem test_ldcVbr_1 : runs [0x412E] [r 1 0x06003000] [vbr 0x06003000, pc 0x06000102] = true := by decide

/-- R326: `LDC.L @R1+,SR`. -/
theorem test_ldcLSr_1 :
    runs [0x4107] [r 1 0x06001000, mL 0x06001000 0xFFFFFC0D] [r 1 0x06001004, fT true, imask 0x0, pc 0x06000102] = true := by decide

/-- R327: `LDC.L @R1+,GBR`. -/
theorem test_ldcLGbr_1 :
    runs [0x4117] [r 1 0x06001000, mL 0x06001000 0x11223344] [r 1 0x06001004, gbr 0x11223344, pc 0x06000102] = true := by decide

/-- R329: `LDS R1,MACH`. -/
theorem test_ldsMach_1 : runs [0x410A] [r 1 0xFFFFFFFF] [mach 0xFFFFFFFF, pc 0x06000102] = true := by decide

/-- R334: `LDS.L @R15+,PR`. -/
theorem test_ldsLPr_1 :
    runs [0x4F26] [r 15 0x06001000, mL 0x06001000 0x06000208] [r 15 0x06001004, pr 0x06000208, pc 0x06000102] = true := by decide

/-- R337: `STC SR,R1`. -/
theorem test_stcSr_1 : runs [0x0102] [r 1 0x00000000, sr 0x3F3] [r 1 0x000003F3, pc 0x06000102] = true := by decide

/-- R340: `STC.L SR,@-R15`. -/
theorem test_stcLSr_1 :
    runs [0x4F03] [r 15 0x06001008, sr 0x3F3] [r 15 0x06001004, mL 0x06001004 0x000003F3, pc 0x06000102] = true := by decide

/-- R341: `STC.L GBR,@-R15`. -/
theorem test_stcLGbr_1 :
    runs [0x4F13] [gbr 0xAABBCCDD, r 15 0x06001008] [r 15 0x06001004, mL 0x06001004 0xAABBCCDD, pc 0x06000102] = true := by decide

/-- R344: `STS MACL,R1`. -/
theorem test_stsMacl_1 : runs [0x011A] [macl 0x9ABCDEF0] [r 1 0x9ABCDEF0, pc 0x06000102] = true := by decide

/-- R349: `STS.L PR,@-R15`. -/
theorem test_stsLPr_1 :
    runs [0x4F22] [pr 0x06000208, r 15 0x06001008] [r 15 0x06001004, mL 0x06001004 0x06000208, pc 0x06000102] = true := by decide

/-- R349: `STS.L PR,@-R15 (misaligned)`. -/
theorem test_stsLPr_2 : stops [0x4F22] [pr 0x06000208, r 15 0x06001006] .addressError = true := by decide

/-- R345: `RTE ; NOP`. -/
theorem test_rte_1 :
    runs [0x002B, 0x0009] [r 15 0x06001000, mL 0x06001000 0x06000310, mL 0x06001004 0xFFFFFFFF] [r 15 0x06001008, fT true, fS true, fQ true, fM true, pc 0x06000310] = true := by decide

/-- R351: `TRAPA #0x20`. -/
theorem test_trapa_1 :
    runs [0xC320] [r 15 0x06001100, vbr 0x06003000, sr 0x0F1, mL 0x06003080 0x06000340] [r 15 0x060010F8, mL 0x060010FC 0x000000F1, mL 0x060010F8 0x06000102, pc 0x06000340] = true := by decide

/-- R352: `0xFFFF (illegal)`. -/
theorem test_illegal_1 :
    runs [0xFFFF] [r 15 0x06001100, vbr 0x06003000, sr 0x0F1, mL 0x06003010 0x06000350] [r 15 0x060010F8, mL 0x060010FC 0x000000F1, mL 0x060010F8 0x06000100, pc 0x06000350] = true := by decide

/-- R352: `0x0108 (CLRT pattern with bits 11:8 = 1: illegal)`. -/
theorem test_illegal_2 :
    runs [0x0108] [r 15 0x06001100, vbr 0x00000000, sr 0x0F1, mL 0x00000010 0x06000350] [r 15 0x060010F8, mL 0x060010FC 0x000000F1, mL 0x060010F8 0x06000100, pc 0x06000350] = true := by decide

/-! ### Single steps worked by hand from the rules of 40_data_transfer and 45_system -/

/-- R152. -/
theorem test_movWStoreDec_1 :
    runs [0x2125] [r 1 0x06001012, r 2 0x1234BEEF] [r 1 0x06001010, mW 0x06001010 0xBEEF, pc 0x06000102] = true := by decide

/-- R154. -/
theorem test_movBLoadInc_1 :
    runs [0x6124] [r 2 0x06001003, mB 0x06001003 0x81] [r 1 0xFFFFFF81, r 2 0x06001004, pc 0x06000102] = true := by decide

/-- R161. -/
theorem test_movWLoadDisp_1 :
    runs [0x8523] [r 2 0x06001000, mW 0x06001006 0x8001] [r 0 0xFFFF8001, pc 0x06000102] = true := by decide

/-- R163. -/
theorem test_movBStoreIdx_1 :
    runs [0x0124] [r 0 0x10, r 1 0x06001001, r 2 0x123456AB] [mB 0x06001011 0xAB, pc 0x06000102] = true := by decide

/-- R164. -/
theorem test_movWStoreIdx_1 :
    runs [0x0125] [r 0 0xFFFFFFFE, r 1 0x06001004, r 2 0x1234BEEF] [mW 0x06001002 0xBEEF, pc 0x06000102] = true := by decide

/-- R166. -/
theorem test_movBLoadIdx_1 :
    runs [0x012C] [r 0 0x3, r 2 0x06001000, mB 0x06001003 0x7F] [r 1 0x7F, pc 0x06000102] = true := by decide

/-- R168. -/
theorem test_movLLoadIdx_1 :
    runs [0x012E] [r 0 0x10, r 2 0x06001000, mL 0x06001010 0x89ABCDEF] [r 1 0x89ABCDEF, pc 0x06000102] = true := by decide

/-- R169. -/
theorem test_movBStoreGbr_1 :
    runs [0xC0FF] [r 0 0x123456AB, gbr 0x06001000] [mB 0x060010FF 0xAB, pc 0x06000102] = true := by decide

/-- R170. -/
theorem test_movWStoreGbr_1 :
    runs [0xC1FF] [r 0 0x1234BEEF, gbr 0x06001000] [mW 0x060011FE 0xBEEF, pc 0x06000102] = true := by decide

/-- R173. -/
theorem test_movWLoadGbr_1 :
    runs [0xC503] [gbr 0x06001000, mW 0x06001006 0x8001] [r 0 0xFFFF8001, pc 0x06000102] = true := by decide

/-- R174. -/
theorem test_movLLoadGbr_1 :
    runs [0xC602] [gbr 0x06001000, mL 0x06001008 0x89ABCDEF] [r 0 0x89ABCDEF, pc 0x06000102] = true := by decide

/-- R328. -/
theorem test_ldcLVbr_1 :
    runs [0x4127] [r 1 0x06001000, mL 0x06001000 0x06003000] [r 1 0x06001004, vbr 0x06003000, pc 0x06000102] = true := by decide

/-- R330. -/
theorem test_ldsMacl_1 :
    runs [0x411A] [r 1 0x89ABCDEF] [macl 0x89ABCDEF, pc 0x06000102] = true := by decide

/-- R331. -/
theorem test_ldsPr_1 :
    runs [0x412A] [r 1 0x06002000] [pr 0x06002000, pc 0x06000102] = true := by decide

/-- R332. -/
theorem test_ldsLMach_1 :
    runs [0x4106] [r 1 0x06001000, mL 0x06001000 0x89ABCDEF] [r 1 0x06001004, mach 0x89ABCDEF, pc 0x06000102] = true := by decide

/-- R333. -/
theorem test_ldsLMacl_1 :
    runs [0x4116] [r 1 0x06001000, mL 0x06001000 0x89ABCDEF] [r 1 0x06001004, macl 0x89ABCDEF, pc 0x06000102] = true := by decide

/-- R338. -/
theorem test_stcGbr_1 :
    runs [0x0112] [gbr 0x11223344] [r 1 0x11223344, pc 0x06000102] = true := by decide

/-- R339. -/
theorem test_stcVbr_1 :
    runs [0x0122] [vbr 0x06003000] [r 1 0x06003000, pc 0x06000102] = true := by decide

/-- R342. -/
theorem test_stcLVbr_1 :
    runs [0x4F23] [vbr 0x06003000, r 15 0x06001008] [r 15 0x06001004, mL 0x06001004 0x06003000, pc 0x06000102] = true := by decide

/-- R343. -/
theorem test_stsMach_1 :
    runs [0x010A] [mach 0x12345678] [r 1 0x12345678, pc 0x06000102] = true := by decide

/-- R346. -/
theorem test_stsPr_1 :
    runs [0x012A] [pr 0x06000208] [r 1 0x06000208, pc 0x06000102] = true := by decide

/-- R347. -/
theorem test_stsLMach_1 :
    runs [0x4F02] [mach 0x12345678, r 15 0x06001008] [r 15 0x06001004, mL 0x06001004 0x12345678, pc 0x06000102] = true := by decide

/-- R348. -/
theorem test_stsLMacl_1 :
    runs [0x4F12] [macl 0x12345678, r 15 0x06001008] [r 15 0x06001004, mL 0x06001004 0x12345678, pc 0x06000102] = true := by decide

/-- R350. -/
theorem test_sleep_1 :
    runs [0x001B] [] [pc 0x06000102, fun s => { s with run := .sleeping }] = true := by decide

/-- R350: `SLEEP` with the standby bit set. -/
theorem test_sleep_2 :
    stops [0x001B] [fun s => { s with sbycr := 0xE0 }] .standbyMode = true := by decide

/-! ### Interrupts: 95_test_vectors 2.8 -/

def mask (v : BitVec 4) : Change := fun s => { s with intc := { s.intc with mask := v } }
def ipra (v : Half) : Change := fun s => { s with intc := { s.intc with ipra := v } }
def vcrwdt (v : Half) : Change := fun s => { s with intc := { s.intc with vcrwdt := v } }
def pending (src : Source) (b : Bool) : Change := fun s => s.setPending src b
def run (v : RunState) : Change := fun s => { s with run := v }
def ch0 (sar dar tcr chcr : Word) : Change := fun s =>
  { s with dma0 := { s.dma0 with sar := sar, dar := dar, tcr := tcr, chcr := chcr } }
def ch1 (sar dar tcr chcr : Word) : Change := fun s =>
  { s with dma1 := { s.dma1 with sar := sar, dar := dar, tcr := tcr, chcr := chcr } }
def vector0 (v : Word) : Change := fun s => { s with dma0 := { s.dma0 with vcrdma := v } }
def dmaor (v : Word) : Change := fun s => { s with dmaor := v }
def units (k : ℕ+) : Change := fun s => { s with params := { s.params with dmaUnitsPerStep := k } }

/-- The common start of section 2.8. -/
def node (cs : List Change) : State :=
  changed ([pc 0x06000200, r 15 0x06040000, vbr 0x06003000] ++ cs) State.reset

/-- One move of the given agent makes exactly the listed changes. -/
def moves (e : Event) (cs ends : List Change) : Bool :=
  match step { node cs with schedule := [e] } with
  | .next t => decide (t = changed ends (node cs))
  | _ => false

/-- One move of the given agent stops so. -/
def moveStops (e : Event) (cs : List Change) (why : Stop) : Bool :=
  stopOf (step { node cs with schedule := [e] }) == some why

/-- X1: PWM is accepted; the source stays pending. -/
theorem test_X1 : moves .boundary
    [sr 0x001, mask 1, pending (.board .pwm) true, mL 0x0600310C 0x06000360]
    [mL 0x0603FFFC 1, mL 0x0603FFF8 0x06000200, r 15 0x0603FFF8, sr 0x061, pc 0x06000360] = true := by decide

/-- X2: a level equal to `IMASK` is not accepted. -/
theorem test_X2 : moves .boundary
    [sr 0x061, mask 1, pending (.board .pwm) true, mL 0x0600310C 0x06000360] [] = true := by decide

/-- X3: masked, nothing happens. -/
theorem test_X3 : moves .boundary
    [sr 0x001, pending (.board .pwm) true, mL 0x0600310C 0x06000360] [] = true := by decide

/-- X4: the NMI is accepted over `IMASK` 15, which stays 15. -/
theorem test_X4 : moves .boundary
    [pending (.board .nmi) true, mL 0x06003120 0x06000380]
    [mL 0x0603FFFC 0xF0, mL 0x0603FFF8 0x06000200, r 15 0x0603FFF8, pc 0x06000380] = true := by decide

/-- X5: VINT before PWM. -/
theorem test_X5 : moves .boundary
    [sr 0, mask 9, pending (.board .vint) true, pending (.board .pwm) true, mL 0x06003118 0x06000370]
    [mL 0x0603FFFC 0, mL 0x0603FFF8 0x06000200, r 15 0x0603FFF8, sr 0x0C0, pc 0x06000370] = true := by decide

/-- X6: an on-chip source clears itself, and its device flag stays. -/
theorem test_X6 : moves .boundary
    [sr 0x040, ipra 0x0500, vector0 0x48, pending (.dmac .ch0) true, ch0 0 0 0 2, mL 0x06003120 0x06000390]
    [mL 0x0603FFFC 0x40, mL 0x0603FFF8 0x06000200, r 15 0x0603FFF8, sr 0x050, pc 0x06000390,
     pending (.dmac .ch0) false] = true := by decide

/-- X9: the watchdog's vector is bits 14:8 of its register. -/
theorem test_X9 : moves .boundary
    [sr 0, ipra 0x0070, vcrwdt 0x4A00, pending .wdt true, mL 0x06003128 0x060003A0]
    [mL 0x0603FFFC 0, mL 0x0603FFF8 0x06000200, r 15 0x0603FFF8, sr 0x070, pc 0x060003A0,
     pending .wdt false] = true := by decide

/-- X10: a delayed branch and its slot are one step; the interrupt is taken after it. -/
theorem test_X10 : moves .core
    [pc 0x060001FC, mW 0x060001FC 0xA080, mW 0x060001FE 0x0009, sr 0x001, mask 1, pending (.board .pwm) true,
     mL 0x0600310C 0x06000360]
    [mL 0x0603FFFC 1, mL 0x0603FFF8 0x06000300, r 15 0x0603FFF8, sr 0x061, pc 0x06000360] = true := by decide

/-- X11: the trap's frame first, then the interrupt's. -/
theorem test_X11 : moves .core
    [mW 0x06000200 0xC320, mL 0x06003080 0x06000340, sr 0x001, mask 1, pending (.board .pwm) true,
     mL 0x0600310C 0x06000360]
    [mL 0x0603FFFC 1, mL 0x0603FFF8 0x06000202, mL 0x0603FFF4 1, mL 0x0603FFF0 0x06000340, r 15 0x0603FFF0, sr 0x061,
     pc 0x06000360] = true := by decide

/-- X12: a sleeping core accepts at the scheduling point at which the source is raised, and runs. -/
theorem test_X12 : moves (.move (.hostRaise .pwm))
    [run .sleeping, sr 0, mask 1, mL 0x0600310C 0x06000360]
    [pending (.board .pwm) true, run .running, mL 0x0603FFFC 0, mL 0x0603FFF8 0x06000200, r 15 0x0603FFF8, sr 0x060,
     pc 0x06000360] = true := by decide

/-- X13: a misaligned stack faults at the first push. -/
theorem test_X13 : moveStops .boundary
    [r 15 0x06040002, sr 0x001, mask 1, pending (.board .pwm) true] .addressError = true := by decide

/-! ### Moves inside an instruction (R68, R94, R97): log 20 -/

/-- A DMA unit that copies 0x80 onto the operand of an `OR.B` falls between its read and its write, and is lost; the same batch
falls after the write of a `TAS.B`, whose pair is indivisible, and its copy stays. -/
theorem test_move_inside_orB :
    (match step { (start [0xCF01] [r 0 0, gbr 0x06001000, mB 0x06001000 0x02, mB 0x06001001 0x80, dmaor 1,
        ch0 0x06001001 0x06001000 1 0x0201]) with inside := [[], [.dma .ch0]] } with
     | .next t => decide (t.heldByte (key 0x06001000) = some 0x03 ∧ t.dma0.tcr = 0 ∧ t.inside = [])
     | _ => false) = true := by decide

theorem test_nothing_inside_tasB :
    (match step { (start [0x411B] [r 1 0x06001000, mB 0x06001000 0x02, mB 0x06001001 0x80, dmaor 1,
        ch0 0x06001001 0x06001000 1 0x0201]) with inside := [[], [.dma .ch0]] } with
     | .next t => decide (t.heldByte (key 0x06001000) = some 0x80 ∧ t.dma0.tcr = 0 ∧ t.inside = [])
     | _ => false) = true := by decide

/-- With PWM pending: a VINT raised before the sample is accepted in its place; a VINT raised after the acceptance is not, and a
byte written there by the other node, where the first push goes, is overwritten by it. -/
theorem test_moves_around_acceptance :
    (match step { (node [sr 0, mask 9, pending (.board .pwm) true, mW 0x06000200 0x0009, mL 0x06003118 0x06000370])
        with inside := [[], [.hostRaise .vint]] } with
     | .next t => decide (t.pc = 0x06000370 ∧ t.inside = [])
     | _ => false) = true ∧
    (match step { (node [sr 0, mask 9, pending (.board .pwm) true, mW 0x06000200 0x0009, mL 0x0600310C 0x06000360])
        with inside := [[], [], [.hostRaise .vint, .otherNode 0x0603FFFC .byte 7]] } with
     | .next t => decide (t.pc = 0x06000360 ∧ t.intc.pending.vint = true ∧ t.inside = [] ∧
         t.heldByte (key 0x0603FFFC) = some 0)
     | _ => false) = true := by decide

/-! ### DMA: 95_test_vectors 2.9 -/

def source4 : List Change :=
  [mW 0x06001000 0x1111, mW 0x06001002 0x2222, mW 0x06001004 0x3333, mW 0x06001006 0x4444]
def copied4 : List Change :=
  [mW 0x06002000 0x1111, mW 0x06002002 0x2222, mW 0x06002004 0x3333, mW 0x06002006 0x4444]

/-- M1, as four units of one step. -/
theorem test_M1 : moves (.move (.dma .ch0))
    (source4 ++ [units 4, dmaor 1, ch0 0x06001000 0x06002000 4 0x5601])
    (copied4 ++ [ch0 0x06001008 0x06002008 0 0x5603]) = true := by decide +kernel

/-- M1 with `IE`: the completion interrupt. -/
theorem test_M1_interrupt : moves (.move (.dma .ch0))
    (source4 ++ [units 4, dmaor 1, ch0 0x06001000 0x06002000 4 0x5605])
    (copied4 ++ [ch0 0x06001008 0x06002008 0 0x5607, pending (.dmac .ch0) true]) = true := by decide +kernel

/-- M2: a count of 0 is the modulus. -/
theorem test_M2 : moves (.move (.dma .ch0))
    [mW 0x06001000 0x1111, dmaor 1, ch0 0x06001000 0x06002000 0 0x5601]
    [mW 0x06002000 0x1111, ch0 0x06001002 0x06002002 0xFFFF 0x5601] = true := by decide

/-- M4: without a request nothing moves. -/
theorem test_M4 : moves (.move (.dma .ch0)) [dmaor 1, ch0 0x06001000 0x06002000 4 0x5401] [] = true := by decide

/-- M5: fixed source, decremented destination, longwords. -/
theorem test_M5 : moves (.move (.dma .ch1))
    [mL 0x06001000 0xCAFEF00D, units 2, dmaor 1, ch1 0x06001000 0x0600200C 2 0x8A01]
    [mL 0x0600200C 0xCAFEF00D, mL 0x06002008 0xCAFEF00D, ch1 0x06001000 0x06002004 0 0x8A03] = true := by decide +kernel

/-- M6, its first block: the 16-byte unit is four longwords and counts by four. -/
theorem test_M6 : moves (.move (.dma .ch0))
    (source4 ++ [mL 0x06001008 5, mL 0x0600100C 6, dmaor 1, ch0 0x06001000 0x06002000 8 0x5E01])
    (copied4 ++ [mL 0x06002008 5, mL 0x0600200C 6, ch0 0x06001010 0x06002010 4 0x5E01]) = true := by decide +kernel

/-- M7: a reserved address mode. -/
theorem test_M7 : moveStops (.move (.dma .ch0)) [dmaor 1, ch0 0x06001000 0x06002000 4 0xD601] .busPolicy = true := by decide

/-- M8: without `DME` nothing moves. -/
theorem test_M8 : moves (.move (.dma .ch0)) [ch0 0x06001000 0x06002000 4 0x5601] [] = true := by decide

/-- M10: a misaligned source. -/
theorem test_M10 : moveStops (.move (.dma .ch0)) [dmaor 1, ch0 0x06001001 0x06002000 4 0x5601] .addressError = true := by
  decide

/-- M11: the on-chip block is no place for a DMA write. -/
theorem test_M11 : moveStops (.move (.dma .ch0))
    (source4 ++ [dmaor 1, ch0 0x06001000 0xFFFFFF80 4 0x5601]) .busPolicy = true := by decide

/-! ### The division unit and the watchdog: 95_test_vectors 2.10 and 2.11 -/

/-- Writes of the core in order. -/
def writes : List (Size × Word × Word) → State → Option State
  | [], s => some s
  | (sz, a, v) :: ws, s =>
    match memWrite .core sz a v s with
    | .ok s' => writes ws s'
    | .error _ => none

/-- After the writes, `DVDNT` = `DVDNTL`, `DVCR` and (where the row gives one) `DVDNTH` read so. -/
def divides (ws : List (Word × Word)) (q : Word) (rem : Option Word) (dvcr : Word) : Bool :=
  match writes (ws.map (fun w => (.long, w.1, w.2))) State.reset with
  | some t => decide (t.divu.dvdnt = q ∧ t.divu.dvdntl = q ∧ t.divu.dvcr = dvcr) &&
      (match rem with | some v => decide (t.divu.dvdnth = v) | none => true)
  | none => false

theorem test_divu_32 :
    divides [(0xFFFFFF00, 2), (0xFFFFFF04, 7)] 3 (some 1) 0 = true ∧
    divides [(0xFFFFFF00, 2), (0xFFFFFF04, 0xFFFFFFF9)] 0xFFFFFFFD (some 0xFFFFFFFF) 0 = true ∧
    divides [(0xFFFFFF00, 0xFFFFFFFE), (0xFFFFFF04, 7)] 0xFFFFFFFD (some 1) 0 = true ∧
    divides [(0xFFFFFF00, 0xFFFFFFFE), (0xFFFFFF04, 0xFFFFFFF9)] 3 (some 0xFFFFFFFF) 0 = true ∧
    divides [(0xFFFFFF00, 5), (0xFFFFFF04, 0)] 0 (some 0) 0 = true := by decide

theorem test_divu_overflow :
    divides [(0xFFFFFF00, 0), (0xFFFFFF04, 0xA)] 0x7FFFFFFF none 1 = true ∧
    divides [(0xFFFFFF00, 0), (0xFFFFFF04, 0xFFFFFFF6)] 0x80000000 none 1 = true ∧
    divides [(0xFFFFFF00, 0), (0xFFFFFF04, 0)] 0x7FFFFFFF none 1 = true ∧
    divides [(0xFFFFFF00, 0xFFFFFFFF), (0xFFFFFF04, 0x80000000)] 0x7FFFFFFF none 1 = true := by decide

theorem test_divu_64 :
    divides [(0xFFFFFF00, 2), (0xFFFFFF10, 1), (0xFFFFFF14, 0)] 0x7FFFFFFF none 1 = true ∧
    divides [(0xFFFFFF00, 2), (0xFFFFFF10, 0), (0xFFFFFF14, 0xFFFFFFFF)] 0x7FFFFFFF (some 1) 0 = true ∧
    divides [(0xFFFFFF00, 3), (0xFFFFFF10, 0xFFFFFFFF), (0xFFFFFF14, 0xFFFFFFF6)] 0xFFFFFFFD (some 0xFFFFFFFF) 0
      = true := by decide

/-- The word writes to the WDT ports, then a run of the timer (its step, for a positive number of cycles): the registers then
read so. -/
def counts (p : Params) (w : Wdt) (ws : List (Word × Word)) (cycles : Nat) (csr cnt rst : Byte) (presc : Nat)
    (irq : Bool) : Bool :=
  match writes (ws.map (fun x => (.word, x.1, x.2))) { State.reset with params := p, wdt := w } with
  | some s =>
    match s.wdtRun cycles with
    | .next t => decide (t.wdt = { wtcnt := cnt, wtcsr := csr, rstcsr := rst, presc := presc }) &&
        t.intc.pending.wdt == irq
    | _ => false
  | none => false

/-- W1, W5, W6. -/
theorem test_wdt_counts :
    counts Config.defaultParams Wdt.reset [(0xFFFFFE80, 0x5A00), (0xFFFFFE80, 0xA53F)] 8192 0x3F 1 0x1F 0 false = true ∧
    counts Config.defaultParams Wdt.reset [(0xFFFFFE80, 0xA538)] 5 0x38 2 0x1F 1 false = true ∧
    counts Config.defaultParams { wtcnt := 2, wtcsr := 0x38, rstcsr := 0x1F, presc := 1 } [] 1 0x38 3 0x1F 0 false
      = true := by decide

/-- W2, W3: the last count before the overflow, in the two modes and for the two settings of `WDT_IRQ_MODE`. -/
theorem test_wdt_overflow :
    counts Config.defaultParams { wtcnt := 0xFF, wtcsr := 0x3F, rstcsr := 0x1F, presc := 0 } [] 8192
      0xBF 0 0x1F 0 false = true ∧
    counts { Config.defaultParams with wdtIrqMode := .interval }
      { wtcnt := 0xFF, wtcsr := 0x3F, rstcsr := 0x1F, presc := 0 } [] 8192 0xBF 0 0x1F 0 true = true ∧
    counts Config.defaultParams { wtcnt := 0xFF, wtcsr := 0x7F, rstcsr := 0x1F, presc := 0 } [] 8192
      0xFF 0 0x9F 0 true = true := by decide

/-- The divider table at its defaults (R6, R483). -/
theorem test_wdt_dividers :
    ((List.range 8).map (fun k =>
      ({ State.reset with wdt := { Wdt.reset with wtcsr := BitVec.ofNat 8 (0x38 + k) } } : State).wdtDivider)) =
      [2, 64, 128, 256, 512, 1024, 4096, 8192] := by decide

/-- W4: a watchdog overflow with reset enabled. -/
theorem test_wdt_reset_refused : moveStops (.move (.wdt 8192))
    [fun s => { s with wdt := { wtcnt := 0xFF, wtcsr := 0x7F, rstcsr := 0x5F, presc := 0 } }] .watchdogReset = true := by
  decide

/-- W7 to W10: writes without the protocol, the clearing of `OVF`, the end of counting. -/
theorem test_wdt_writes :
    counts Config.defaultParams Wdt.reset [(0xFFFFFE80, 0x003F), (0xFFFFFE80, 0xA43F)] 0 0x18 0 0x1F 0 false = true ∧
    counts Config.defaultParams { wtcnt := 0, wtcsr := 0xBF, rstcsr := 0x1F, presc := 0 } [(0xFFFFFE80, 0xA53F)] 0
      0x3F 0 0x1F 0 false = true ∧
    counts Config.defaultParams { wtcnt := 0, wtcsr := 0xBF, rstcsr := 0x1F, presc := 0 } [(0xFFFFFE80, 0xA5BF)] 0
      0xBF 0 0x1F 0 false = true ∧
    counts Config.defaultParams { wtcnt := 1, wtcsr := 0x3F, rstcsr := 0x1F, presc := 7 } [(0xFFFFFE80, 0xA518)] 0
      0x18 0 0x1F 0 false = true := by decide

/-! ### The decoder and memory: 95_test_vectors 2.12 -/

/-- After the writes, a read of the core answers so. -/
def readsBack (ws : List (Size × Word × Word)) (sz : Size) (a v : Word) : Bool :=
  match writes ws State.reset with
  | some s => (match memRead .core sz a s with | .ok (w, _) => w == v | .error _ => false)
  | none => false

/-- A read of the core from the reset state faults with `BusPolicy`, and a write too if asked. -/
def refused (p : Params) (sz : Size) (a : Word) : Bool :=
  (match memRead .core sz a { State.reset with params := p } with
   | .error (.busPolicy _ _ .read .core) => true | _ => false)

def writeRefused (p : Params) (sz : Size) (a : Word) : Bool :=
  (match memWrite .core sz a 0x12345678 { State.reset with params := p } with
   | .error (.busPolicy _ _ .write .core) => true | _ => false)

/-- A1, A2, A7. -/
theorem test_A1_A2_A7 :
    readsBack [(.long, 0x06001000, 0x11223344)] .byte 0x06001000 0x11 = true ∧
    readsBack [(.long, 0x06001000, 0x11223344)] .byte 0x06001003 0x44 = true ∧
    readsBack [(.long, 0x06001000, 0x11223344)] .word 0x06001002 0x3344 = true ∧
    readsBack [(.long, 0x06001000, 0x11223344)] .long 0x26001000 0x11223344 = true ∧
    readsBack [(.long, 0x26001000, 0x11223344)] .long 0x06001000 0x11223344 = true ∧
    readsBack [(.long, 0x06001000, 0x11223344)] .long 0x16001000 0x11223344 = true := by decide

/-- A3, A4, A6, A8, A9, A11. -/
theorem test_A3_to_A11 :
    readsBack [(.long, 0x06001000, 5), (.long, 0x46001000, 0x11223344)] .long 0x06001000 5 = true ∧
    ([0x46001000, 0x06040000, 0x80000000, 0x60000000, 0xC0000000] : List Word).all
      (refused Config.defaultParams .long) = true ∧
    refused Config.defaultParams .byte 0x00004200 = true ∧
    ([0, 0x02000000] : List Word).all (writeRefused Config.defaultParams .byte) = true ∧
    ([0, 0x02000000] : List Word).all (writeRefused Config.defaultParams .long) = true := by decide

/-- A10: the cartridge image is mirrored. -/
theorem test_A10 :
    (match memRead .core .long 0x02100000
        ({ State.reset with cartLength := 0x100000 }.writeCells (cellsAt (key 0x02000000) [0x12, 0x34, 0x56, 0x78])) with
     | .ok (v, _) => v == 0x12345678
     | .error _ => false) = true := by decide

/-- A13, A14: the over region skips zero bytes. -/
theorem test_A13_A14 :
    readsBack [(.word, 0x04000000, 0x5678), (.word, 0x04020000, 0x0000)] .word 0x04000000 0x5678 = true ∧
    readsBack [(.word, 0x04000000, 0x5678), (.word, 0x04020000, 0x1200)] .word 0x04020000 0x1278 = true := by decide

/-- A parameter changed. -/
def param (f : Params → Params) : Change := fun s => { s with params := f s.params }

/-- R83, R6: the map is a parameter; here SDRAM stands at 0x01000000, and is not where it was. -/
theorem test_other_map :
    (match writes [(.long, 0x01000010, 0x11223344)]
        (param (fun p => { p with layout := { p.layout with sdramBase := 0x1000000 } }) State.reset) with
     | some s =>
       (match memRead .core .word 0x01000012 s with | .ok (w, _) => w == 0x3344 | .error _ => false) &&
       (match memRead .core .word 0x06000012 s with | .ok _ => false | .error _ => true)
     | none => false) = true := by decide

/-- R98: after a DMA write a read through the cached alias may see the earlier value; around the cache, and after a purge of the
byte, it sees the latest; the core's own write it sees at once. -/
def staleNode : State := param (fun p => { p with cacheModel := .staleDraw }) (node [mB 0x06001000 0x11])

theorem test_stale_candidates :
    (match memWrite (.dmac .ch0) .byte 0x06001000 0x22 staleNode with
     | .ok t => decide (t.earlier (key 0x06001000) = [some 0x11]) &&
         (match memRead .core .byte 0x26001000 t with | .ok (w, _) => w == 0x22 | .error _ => false) &&
         (match memWrite .core .byte 0x46001000 0 t with
          | .ok u => (match memRead .core .byte 0x06001000 u with | .ok (w, _) => w == 0x22 | .error _ => false)
          | .error _ => false)
     | .error _ => false) = true := by decide

theorem test_stale_own_write :
    (match memWrite .core .byte 0x06001000 0x33 staleNode with
     | .ok t => (match memRead .core .byte 0x06001000 t with | .ok (w, _) => w == 0x33 | .error _ => false)
     | .error _ => false) = true := by decide

/-- A15, A16: misaligned accesses fault; under the clamp a refused read answers all ones. -/
theorem test_A15_A16 :
    memRead .core .word 0x06001001 State.reset = .error (.addressError 0x06001001 .word .core) ∧
    memRead .core .long 0x06001002 State.reset = .error (.addressError 0x06001002 .long .core) ∧
    memRead .core .word 0x06040000 { State.reset with params := { Config.defaultParams with unmapped := .clamp } } =
      .ok (0xFFFF, { State.reset with params := { Config.defaultParams with unmapped := .clamp } }) := by decide

/-- 95_test_vectors 2.13: a reset reads `pc` and `R15` from the boot ROM image. -/
theorem test_reset :
    (match step { (node [mL 0 0x06000100, mL 4 0x06040000, gbr 5]) with schedule := [.hostReset] } with
     | .next t => decide (t.pc = 0x06000100 ∧ t.reg 15 = 0x06040000 ∧ t.vbr = 0 ∧ t.dma0.chcr = 0 ∧
         t.wdt.wtcsr = 0x18)
     | _ => false) = true := by decide

/-! ### Witnesses: for every obligation with hypotheses, a concrete state and operands that meet them all

A statement without hypotheses (or whose only hypothesis is the kind of its operands) has none here. -/

/-- The outcome is a next state of which `p` holds. -/
def gives (o : Result) (p : State → Bool) : Bool :=
  match o with
  | .next t => p t
  | _ => false

/-- The read is answered, and `p` holds of the value. -/
def reads (ag : Agent) (sz : Size) (a : Word) (s : State) (p : Word → Bool) : Bool :=
  match memRead ag sz a s with
  | .ok (v, _) => p v
  | .error _ => false

/-- The write is answered. -/
def isWritten (ag : Agent) (sz : Size) (a v : Word) (s : State) : Bool :=
  match memWrite ag sz a v s with
  | .ok _ => true
  | .error _ => false

/-- In the delay slot of a branch to `target`. -/
def slot (target : Word) : Change := fun s => { s with delaySlot := some target, pc := 0x06000102 }

def pcrel (v : PcrelInSlot) : Change := fun s => { s with params := { s.params with pcrelInSlot := v } }

def clamp : Change := fun s => { s with params := { s.params with unmapped := .clamp } }

/-- The moves that fall inside the coming instructions. -/
def within (batches : List (List Move)) : Change := fun s => { s with inside := batches }

def stale : Change := fun s => { s with params := { s.params with cacheModel := .staleDraw } }

def slave : Change := fun s => { s with params := { s.params with coreId := .slave } }

/-- SDRAM bytes at both ends. -/
def ends : List Change := [mL 0x06000000 0x11223344, mL 0x0603FFFC 0x55667788]

/-- The premises every clause of StepRunsTheDecodedInstruction shares, for an opcode at `pc`. -/
def fetches (s : State) (op : Half) : Bool :=
  decide (s.schedule = [] ∧ s.run = .running ∧ s.delaySlot = none) &&
    decide (memRead .core .word s.pc s = .ok (op.setWidth 32, s)) &&
    gives (interpose s) (fun t => decide (t = s))

theorem witness_StepRuns_plain :
    fetches (start [0xE1FF] []) 0xE1FF = true ∧ decodeWord 0xE1FF = some (.movImm 1 0xFF) ∧
    gives (exec (.movImm 1 0xFF) (start [0xE1FF] [])) (fun t => decide (t.delaySlot = none)) = true := by decide

/-- A move inside: another agent raises a source after the fetch; another overflows the timer with reset enabled. -/
theorem witness_StepRuns_inside :
    memRead .core .word 0x06000100 (start [0x0009] [within [[.hostRaise .pwm]]]) =
      .ok (9, start [0x0009] [within [[.hostRaise .pwm]]]) ∧
    gives (interpose (start [0x0009] [within [[.hostRaise .pwm]]])) (fun t => t.intc.pending.pwm) = true ∧
    stopOf (interpose (start [0x0009]
      [within [[.wdt 8192]], fun s => { s with wdt := { wtcnt := 0xFF, wtcsr := 0x7F, rstcsr := 0x5F, presc := 0 } }])) =
      some .watchdogReset := by decide

theorem witness_StepRuns_delayed :
    fetches (start [0xA010, 0x0009] []) 0xA010 = true ∧ decodeWord 0xA010 = some (.bra 0x010) ∧
    gives (exec (.bra 0x010) (start [0xA010, 0x0009] [])) (fun t => decide (t.delaySlot = some 0x06000124)) = true := by
  decide

theorem witness_StepRuns_fault :
    fetches (start [0x2121] [r 1 0x06001001]) 0x2121 = true ∧ decodeWord 0x2121 = some (.movWStore 2 1) ∧
    stopOf (exec (.movWStore 2 1) (start [0x2121] [r 1 0x06001001])) = some .addressError := by decide

theorem witness_StepRuns_refused :
    fetches (start [0x001B] [fun s => { s with sbycr := 0xE0 }]) 0x001B = true ∧ decodeWord 0x001B = some .sleep ∧
    stopOf (exec .sleep (start [0x001B] [fun s => { s with sbycr := 0xE0 }])) = some .standbyMode := by decide

theorem witness_StepRuns_illegal :
    fetches (start [0xFFFF] [r 15 0x06001100, vbr 0x06003000, mL 0x06003010 0x06000350]) 0xFFFF = true ∧
    decodeWord 0xFFFF = none ∧
    gives (enter 4 0x06000100 none (start [0xFFFF] [r 15 0x06001100, vbr 0x06003000, mL 0x06003010 0x06000350]))
      (fun t => decide (t.pc = 0x06000350)) = true := by decide

theorem witness_DelayedBranchRunsItsSlot :
    fetches (start [0xB010, 0x022A] []) 0xB010 = true ∧ decodeWord 0xB010 = some (.bsr 0x010) ∧
    Instr.isDelayedBranch (.bsr 0x010) = true ∧
    gives (exec (.bsr 0x010) (start [0xB010, 0x022A] []))
      (fun b => gives (interpose b) (fun b1 => decide (b1 = b)) && decide (memRead .core .word b.pc b = .ok (0x022A, b)) &&
        gives (exec (.stsPr 2) b) (fun _ => true))
      = true ∧
    decodeWord 0x022A = some (.stsPr 2) := by decide

theorem witness_OtherInstructionsAdvancePcByTwo :
    Instr.writesPc (.addReg 1 2) = false ∧ gives (exec (.addReg 1 2) (start [] [])) (fun _ => true) = true ∧
    gives (exec (.addReg 1 2) (start [] [slot 0x06000200])) (fun _ => true) = true := by decide

theorem witness_PcWritersAndIllegalOpcodesFaultInSlot :
    (start [] [slot 0x06000200]).delaySlot = some 0x06000200 ∧ Instr.writesPc .rte = true ∧
    Instr.writesPc (.bt 0) = true ∧ decodeWord 0xFFFF = none := by decide

theorem witness_AgentsMove_controllers :
    gives (moveStep (.dma .ch0) (start [] [dmaor 1, ch0 0x06000100 0x06002000 4 0x5601, mW 0x06000100 1]))
      (fun t => decide (t.run = .running)) = true ∧
    gives (moveStep (.dma .ch0) (start [] [run .sleeping, dmaor 1, ch0 0x06000100 0x06002000 4 0x5601]))
      (fun t => decide (t.run = .sleeping)) = true ∧
    (match dmaMove .ch0 (start [] [dmaor 1, ch0 0x06000101 0x06002000 4 0x5601]) with
     | .ok _ => false
     | .error _ => true) = true ∧
    (start [] [within [[], [.hostBankSwap]]]).inside = [] :: [[.hostBankSwap]] ∧
    gives (interpose (start [] [within [[.hostBankSwap, .hostTrigger .ch1 true]]]))
      (fun t => decide (t.fbBank = true ∧ t.dma1.extTrigger = true ∧ t.inside = [])) = true := by decide

theorem witness_PcRelative_bases :
    (start [] []).delaySlot = none ∧ (start [] [slot 0x06000200]).delaySlot = some 0x06000200 ∧
    (start [] [pcrel .targetBased, slot 0x06000200]).params.pcrelInSlot = .targetBased ∧
    (start [] [pcrel .slotBased, slot 0x06000200]).params.pcrelInSlot = .slotBased ∧
    (start [] [slot 0x06000200]).params.pcrelInSlot = .refuse := by decide

/-- The two kinds of read a load meets, at the last unit of SDRAM and just past it, for each size. -/
theorem witness_loads :
    reads .core .byte 0x0603FFFF (start [] ends) (fun v => v == 0x88) = true ∧
    reads .core .word 0x0603FFFE (start [] ends) (fun v => v == 0x7788) = true ∧
    reads .core .long 0x0603FFFC (start [] ends) (fun v => v == 0x55667788) = true ∧
    memRead .core .byte 0x06040000 (start [] []) = .error (.busPolicy 0x06040000 .byte .read .core) ∧
    memRead .core .word 0x06040000 (start [] []) = .error (.busPolicy 0x06040000 .word .read .core) ∧
    memRead .core .long 0x0603FFFE (start [] []) = .error (.addressError 0x0603FFFE .long .core) := by decide

/-- The two kinds of write a store meets, likewise. -/
theorem witness_stores :
    isWritten .core .byte 0x0603FFFF 1 (start [] []) = true ∧ isWritten .core .word 0x0603FFFE 1 (start [] []) = true ∧
    isWritten .core .long 0x0603FFFC 1 (start [] []) = true ∧
    memWrite .core .byte 0x06040000 1 (start [] []) = .error (.busPolicy 0x06040000 .byte .write .core) ∧
    memWrite .core .word 0x0603FFFF 1 (start [] []) = .error (.addressError 0x0603FFFF .word .core) ∧
    memWrite .core .long 0x02000000 1 (start [] []) = .error (.busPolicy 0x02000000 .long .write .core) := by decide

/-- The operands of a multiply-accumulate at 06000100 and 06000104, through two registers and through one. -/
def macState (cs : List Change) : State :=
  start [0x0000, 0x0005, 0x0000, 0x0007] ([r 1 0x06000100, r 2 0x06000104] ++ cs)

def macReads (sz : Size) (m n : Reg) (s : State) : Bool :=
  match memRead .core sz (s.reg n) s with
  | .ok (_, s1) =>
    (match interpose (s1.setReg n (s.reg n + BitVec.ofNat 32 sz.bytes)) with
     | .next s2 =>
       (match memRead .core sz ((s.setReg n (s.reg n + BitVec.ofNat 32 sz.bytes)).reg m) s2 with
        | .ok _ => true
        | .error _ => false)
     | _ => false)
  | .error _ => false

theorem witness_MultiplyAccumulate :
    macReads .long 2 1 (macState [within [[.hostTrigger .ch0 true]]]) = true ∧
    macReads .long 2 1 (macState []) = true ∧ macReads .long 1 1 (macState []) = true ∧
    macReads .word 2 1 (macState []) = true ∧ macReads .word 1 1 (macState []) = true ∧
    (macState []).sBit = false ∧ (macState [fS true]).sBit = true ∧
    (macState [fS true, mach 0x00007FFF, macl 0xFFFFFFFF]).mac.toInt = 2 ^ 47 - 1 ∧
    (macState [fS true, mach 0xFFFF8000, macl 0]).mac.toInt = -2 ^ 47 := by decide

/-- With nothing falling inside, and with a DMA unit between the read and the write. -/
theorem witness_MemoryByteLogic :
    reads .core .byte 0x0603FFFF (start [] ([gbr 0x0603FFF0, r 0 0xF, r 1 0x0603FFFF] ++ ends)) (fun b => b == 0x88) = true ∧
    gives (interpose (start [] ([gbr 0x0603FFF0, r 0 0xF, r 1 0x0603FFFF] ++ ends)))
      (fun t => decide (t = start [] ([gbr 0x0603FFF0, r 0 0xF, r 1 0x0603FFFF] ++ ends))) = true ∧
    isWritten .core .byte 0x0603FFFF 0x80 (start [] ([gbr 0x0603FFF0, r 0 0xF, r 1 0x0603FFFF] ++ ends)) = true ∧
    gives (interpose (start [] ([within [[.dma .ch0]], dmaor 1, ch0 0x06001001 0x06001000 1 0x0201] ++ ends)))
      (fun t => isWritten .core .byte 0x0603FFFF 0x80 t) = true ∧
    (match memReadUncached .byte 0x0603FFFF (start [] ([r 1 0x0603FFFF] ++ ends)) with
     | .ok (b, s1) => b == 0x88 && isWritten .core .byte 0x0603FFFF (b ||| 0x80) s1
     | .error _ => false) = true := by decide

theorem witness_BranchesLatchTheirTarget : (start [] []).delaySlot = none := by decide

theorem witness_ReturnFromException :
    (start [] ([r 15 0x0603FFF8, mL 0x0603FFF8 0x06000310] ++ ends)).delaySlot = none ∧
    reads .core .long 0x0603FFF8 (start [] ([r 15 0x0603FFF8, mL 0x0603FFF8 0x06000310] ++ ends))
      (fun v => v == 0x06000310) = true ∧
    gives (interpose ((start [] ([r 15 0x0603FFF8, mL 0x0603FFF8 0x06000310] ++ ends)).setReg 15 0x0603FFFC))
      (fun s2 => reads .core .long 0x0603FFFC s2 (fun v => v == 0x55667788)) = true := by decide

theorem witness_Sleep :
    (start [] []).sbycr.getLsbD 7 = false ∧ (start [] [fun s => { s with sbycr := 0xE0 }]).sbycr.getLsbD 7 = true ∧
    (start [] [run .sleeping]).schedule = [] ∧ (start [] [run .sleeping]).run = .sleeping ∧
    (start [] [run .sleeping]).intc.currentLevel ≤ (start [] [run .sleeping]).imask.toNat ∧
    gives (step (node [run .sleeping, sr 0, mask 1, pending (.board .pwm) true, mL 0x0600310C 0x06000360]))
      (fun t => decide (t.run = .running)) = true := by decide

/-- The premises of EntersHandler, at the lowest and the highest stack in SDRAM. -/
def entryAnswered (vector : Nat) (savedPc : Word) (newImask : Option (BitVec 4)) (s : State) : Bool :=
  match memWrite .core .long (s.reg 15 - 4) s.sr (s.setReg 15 (s.reg 15 - 4)) with
  | .ok s1 =>
    gives (interpose s1) (fun s2 =>
      (match memWrite .core .long (s.reg 15 - 8) savedPc (s2.setReg 15 (s.reg 15 - 8)) with
       | .ok s3 =>
         gives (interpose (s3.withMask newImask)) (fun s4 =>
           (match memRead .core .long (s.vbr + BitVec.ofNat 32 (4 * vector)) s4 with
            | .ok _ => true
            | .error _ => false))
       | .error _ => false))
  | .error _ => false

theorem witness_TrapAndIllegalOpcode :
    (start [] [r 15 0x06000008, vbr 0x06003000]).delaySlot = none ∧ decodeWord 0xFFFF = none ∧
    entryAnswered 255 0x06000102 none (start [] [r 15 0x06000008, vbr 0x06003000]) = true ∧
    entryAnswered 0 0x06000102 none (start [] [r 15 0x06040000, vbr 0]) = true ∧
    entryAnswered 4 0x06000100 none (start [] [r 15 0x06040000, vbr 0x06003000]) = true ∧
    entryAnswered 4 0x06000100 none
      (start [] [r 15 0x06040000, vbr 0x06003000, within [[.hostRaise .cmd], [.hostBankSwap]]]) = true := by decide

/-- Each of the three accesses of an entry can fault: a misaligned stack, a stack whose second slot is no memory, a vector in
no memory. -/
theorem witness_EntryFaults :
    stopOf (exec (.trapa 1) (start [] [r 15 0x06001002])) = some .addressError ∧
    stopOf (exec (.trapa 1) (start [] [r 15 0x06000004])) = some .busPolicy ∧
    isWritten .core .long 0x06000000 0xF0 (start [] [r 15 0x06000004]) = true ∧
    stopOf (exec (.trapa 1) (start [] [r 15 0x06001000, vbr 0x06040000])) = some .busPolicy := by decide

/-- First and second accesses that fault, for each shape of FaultingAccessesStopTheInstruction. -/
theorem witness_FaultingAccesses :
    stopOf (exec (.macL 2 1) (start [] [r 1 0x06001002, r 2 0x06001000])) = some .addressError ∧
    stopOf (exec (.macL 2 1) (start [] [r 1 0x06001000, r 2 0x06001002])) = some .addressError ∧
    stopOf (exec (.macW 2 1) (start [] [r 1 0x06001000, r 2 0x06001001])) = some .addressError ∧
    stopOf (exec (.andB 1) (start [] [r 0 0, gbr 0x06040000])) = some .busPolicy ∧
    reads .core .byte 0x02000000 (start [] [gbr 0x02000000]) (fun b => b == 0) = true ∧
    stopOf (exec (.orB 1) (start [] [r 0 0, gbr 0x02000000])) = some .busPolicy ∧
    stopOf (exec (.tasB 1) (start [] [r 1 0x02000000])) = some .busPolicy ∧
    stopOf (exec .rte (start [] [r 15 0x0603FFFC, mL 0x0603FFFC 0x06000310])) = some .busPolicy ∧
    stopOf (exec .rte (start [] [r 15 0x06040000])) = some .busPolicy ∧
    stopOf (exec (.xorB 1) (start [] [r 0 0, gbr 0x06001000, within [[.dma .ch1]], dmaor 1,
      ch1 0x06001001 0x06002000 4 0x5601])) = some .addressError := by decide

/-- The premise `AtDefaultMap` of the statements about single addresses, on either node: the only one of
InterruptMaskAndClearRegisters, HardwareFlagsAreClearedNeverSet, the first clauses of OnChipRegistersReadBackTheirFields,
WatchdogWriteProtocol and, but for the values of its operands, DivisionUnitDividesOrSaturates. -/
theorem witness_AtDefaultMap : AtDefaultMap State.reset ∧ AtDefaultMap (slave State.reset) := ⟨rfl, rfl⟩

theorem witness_EntryLeavesPcBelowSr :
    (start [] [r 15 0x06000008, vbr 0]).params.layout = Config.defaultLayout ∧
    (start [] [r 15 0x06000008, vbr 0]).inside = [] ∧
    (start [] [r 15 0x06000008, vbr 0]).mem.wf = true ∧ (start [] [r 15 0x06040000, vbr 0]).mem.wf = true ∧
    gives (enter 4 0x06000100 none (start [] [r 15 0x06000008, vbr 0])) (fun _ => true) = true ∧
    gives (enter 70 0x06000100 (some 12) (start [] [r 15 0x06040000, vbr 0])) (fun _ => true) = true := by decide

theorem witness_Sample :
    (start [] []).intc.currentLevel ≤ (start [] []).imask.toNat ∧
    (start [] [sr 0x050, mask 1, pending (.board .pwm) true]).imask.toNat <
      (start [] [sr 0x050, mask 1, pending (.board .pwm) true]).intc.currentLevel ∧
    (start [] [sr 0x060, mask 1, pending (.board .pwm) true]).intc.currentLevel ≤
      (start [] [sr 0x060, mask 1, pending (.board .pwm) true]).imask.toNat ∧
    entryAnswered 67 0x06000100 (some 6) (start [] [sr 0x050, mask 1, pending (.board .pwm) true, r 15 0x06040000,
      vbr 0x06003000]) = true ∧
    gives (interpose (start [] [sr 0x050, mask 1, pending (.board .pwm) true, r 15 0x06040000, vbr 0x06003000,
        within [[.hostRaise .vint]]]))
      (fun t => t.intc.pending.vint && entryAnswered 67 0x06000100 (some 6) t) = true := by decide

theorem witness_CurrentLevel :
    (∀ src ∈ allSources, Intc.reset.triggered src = false) ∧
    (pending .wdt true (ipra 0x0010 State.reset)).intc.triggered .wdt = true ∧
    (pending (.board .nmi) true State.reset).intc.triggered (.board .nmi) = true := by decide

theorem witness_NmiIsNeverMasked : (pending (.board .nmi) true State.reset).intc.pending.nmi = true := by decide

theorem witness_VintBeforePwm :
    (node [mask 9, pending (.board .vint) true, pending (.board .pwm) true]).params.layout = Config.defaultLayout ∧
    (node [mask 9, pending (.board .vint) true, pending (.board .pwm) true]).intc.pending =
      { Pending.none with vint := true, pwm := true } ∧
    (node [mask 9, pending (.board .vint) true, pending (.board .pwm) true]).intc.mask = 0b1001#4 ∧
    isWritten .core .word 0x00004016 0 (node [mask 9, pending (.board .vint) true, pending (.board .pwm) true]) = true := by
  decide

theorem witness_VectorsAndValidity :
    State.reset.params.layout = Config.defaultLayout ∧ isWritten .core .word 0xFFFFFEE2 0x5670 State.reset = true ∧
    isWritten .core .word 0x00004000 0x000F State.reset = true := by decide

theorem witness_MisalignedAccessesFault :
    (0x06000001 : Word).toNat % Size.word.bytes ≠ 0 ∧ (0x06000002 : Word).toNat % Size.long.bytes ≠ 0 := by decide

theorem witness_RegionTable :
    Config.defaultParams.layout = Config.defaultLayout ∧
    ({ Config.defaultParams with coreId := .slave } : Params).layout = Config.defaultLayout ∧
    aliasBits 0x06001000 = 0 ∧ inOnChipBlock Config.defaultParams 0x06001000 = false ∧
    (RegionRow.holds (windowRow .cart Config.defaultLayout.cart) 0x2000000) = true ∧
    State.reset.params.cacheModel = .transparent ∧
    reads .core .long 0x0603FFFC (start [] ends) (fun _ => true) = true ∧
    isWritten .core .long 0x0603FFFC 1 (start [] []) = true := by decide

/-- The ends of each range of the clauses on either node, and the two settings. -/
theorem witness_RefusedAndDiscardedWrites :
    (start [] []).params.layout = Config.defaultLayout ∧
    (start [] []).params.unmapped = .fault ∧ (start [] [clamp]).params.unmapped = .clamp ∧
    ((0x40000000 : Word).toNat / 2 ^ 29 = 2 ∧ (0x5FFFFFFF : Word).toNat / 2 ^ 29 = 2) ∧
    ([0x000007FF, 0x00000800, 0x00003FFF, 0x00004000, 0x000041FC, 0x00004200, 0x000043FE, 0x00004400, 0x01FFFFFF,
      0x02000000, 0x223FFFFF, 0x22400000, 0x03FFFFFF, 0x04040000, 0x25FFFFFF, 0x06040000, 0x3FFFFFFF, 0x60000000,
      0x80000000, 0xC0000000, 0xFFFFFDFF] : List Word).all (fun a => decide (a.toNat < 0xFFFFFE00) &&
        ([.byte, .word, .long] : List Size).any (fun sz => decide (a.toNat % sz.bytes = 0) &&
          stopOf (ofExcept (memWrite .core sz a 1 (start [] []))) == some .busPolicy)) = true ∧
    stopOf (ofExcept (memWrite .core .byte 0x00000400 1 (start [] [slave]))) = some .busPolicy ∧
    stopOf (ofExcept (memWrite .core .long 0x000003FC 1 (start [] [slave]))) = some .busPolicy := by decide +kernel

theorem witness_SdramAccessesAreAnswered :
    (start [] []).params.layout = Config.defaultLayout ∧ (start [] []).params.cacheModel = .transparent ∧
    (0x2603FFFC : Word).toNat < 0x40000000 ∧ (0x2603FFFC : Word).toNat % 2 ^ 28 = 0x603FFFC ∧
    (0x06000000 : Word).toNat % 2 ^ 28 = 0x6000000 ∧ (0x2603FFFC : Word).toNat % Size.long.bytes = 0 := by decide

theorem witness_SdramIsBigEndianBytes :
    (start [] ends).mem.wf = true ∧ isWritten .core .long 0x0603FFFC 1 (start [] ends) = true ∧
    memRead .core .byte 0x06000000 (start [] ends) = .ok (0x11, start [] ends) ∧
    memRead .core .byte 0x06000001 (start [] ends) = .ok (0x22, start [] ends) ∧
    memRead .core .byte 0x06000002 (start [] ends) = .ok (0x33, start [] ends) ∧
    memRead .core .byte 0x06000003 (start [] ends) = .ok (0x44, start [] ends) ∧
    (start [] ([stale] ++ ends)).params.cacheModel = .staleDraw ∧
    (start [] ([stale] ++ ends)).params.layout = Config.defaultLayout ∧
    isWritten (.dmac .ch1) .byte 0x0603FFFF 1 (start [] ([stale] ++ ends)) = true ∧
    isWritten .core .byte 0x06000000 1 (start [] ([stale] ++ ends)) = true := by decide

theorem witness_ReadsHaveNoSideEffect :
    reads .core .long 0 State.reset (fun v => v == 0) = true ∧
    decodeAddress Config.defaultParams .core 0 .long .read = .region .bootRom 0 ∧
    reads .core .word 0x02000002 State.reset (fun v => v == 0) = true ∧
    decodeAddress Config.defaultParams .core 0x02000002 .word .read = .region .cart 2 ∧
    reads (.dmac .ch1) .byte 0x0603FFFF (start [] ends) (fun v => v == 0x88) = true ∧
    decodeAddress Config.defaultParams (.dmac .ch1) 0x0603FFFF .byte .read = .region .sdram 0x3FFFF := by decide

theorem witness_FrameBufferAndOverRegion :
    State.reset.mem.wf = true ∧ isWritten .core .long 0x0401FFFC 0x11002200 State.reset = true ∧
    decodeAddress Config.defaultParams .core 0x0403FFFC .long .write = .region .over 0x1FFFC ∧
    isWritten .core .long 0x0403FFFC 0x11002200 State.reset = true ∧
    (beBytes .long 0x11002200)[0]? = some 0x11 ∧ (beBytes .long 0x11002200)[3]? = some 0 := by decide

theorem witness_OnChipStorage :
    State.reset.params.layout = Config.defaultLayout ∧ State.reset.mem.wf = true ∧ 0xFFFFFE00 ≤ (0xFFFFFE20 : Word).toNat ∧
    touchesRegister ((0xFFFFFE20 : Word).toNat - 0xFFFFFE00) .byte = false ∧
    isVolatile ((0xFFFFFE20 : Word).toNat - 0xFFFFFE00) = false := by decide

theorem witness_OnChipAccessesOfTheWrongShapeFault :
    (0xFFFFFF8C : Word).toNat % Size.word.bytes = 0 ∧
    touchesRegister ((0xFFFFFF8C : Word).toNat - 0xFFFFFE00) .word = true ∧
    registerAt ((0xFFFFFF8C : Word).toNat - 0xFFFFFE00) .word = none ∧
    touchesWdtPorts ((0xFFFFFF8C : Word).toNat - 0xFFFFFE00) .word = false ∧
    touchesRegister ((0xFFFFFE80 : Word).toNat - 0xFFFFFE00) .long = true ∧
    registerAt ((0xFFFFFE80 : Word).toNat - 0xFFFFFE00) .long = none ∧
    touchesRegister ((0xFFFFFE82 : Word).toNat - 0xFFFFFE00) .byte = true ∧
    registerAt ((0xFFFFFE82 : Word).toNat - 0xFFFFFE00) .byte = none ∧
    State.reset.params.unmapped = .fault ∧ (clamp State.reset).params.unmapped = .clamp := by decide

def divisor (v : Word) : Change := fun s => { s with divu := { s.divu with dvsr := v } }

/-- A quotient at each end of its range, and one past it; a zero divisor; the long form. -/
theorem witness_DivisionUnit :
    isWritten .core .long 0xFFFFFF04 0x80000000 (divisor 1 State.reset) = true ∧
    (0x80000000 : Word).toInt = (-2 ^ 31) * (1 : Word).toInt + 0 ∧
    isWritten .core .long 0xFFFFFF04 0x7FFFFFFF (divisor 1 State.reset) = true ∧
    (0x7FFFFFFF : Word).toInt = (2 ^ 31 - 1) * (1 : Word).toInt + 0 ∧
    isWritten .core .long 0xFFFFFF04 0x80000000 (divisor 0xFFFFFFFF State.reset) = true ∧
    (0x80000000 : Word).toInt = (2 ^ 31) * (0xFFFFFFFF : Word).toInt + 0 ∧
    isWritten .core .long 0xFFFFFF04 7 (divisor 0 State.reset) = true ∧
    isWritten .core .long 0xFFFFFF14 7 (divisor 3 State.reset) = true ∧
    ((State.reset.divu.dvdnth ++ (7 : Word) : BitVec 64).toInt = 2 * (3 : Word).toInt + 1) := by decide

theorem witness_WatchdogWriteProtocol :
    (0xA53F : Word).extractLsb' 8 8 = 0xA5#8 ∧ ((0xA53F : Word).setWidth 8).getLsbD 5 = true ∧
    ((0xA51F : Word).setWidth 8).getLsbD 5 = false ∧ (0x5A00 : Word).extractLsb' 8 8 = 0x5A#8 ∧
    ((0xA500 : Word).setWidth 8).getLsbD 7 = false ∧ ((0xA580 : Word).setWidth 8).getLsbD 7 = true ∧
    State.reset.params.layout = Config.defaultLayout ∧
    (0x003F : Word).extractLsb' 8 8 ≠ 0xA5#8 ∧ (0x003F : Word).extractLsb' 8 8 ≠ 0x5A#8 := by decide

def timer (w : Wdt) : State := { State.reset with wdt := w }

/-- The last count before the overflow and the first past it; the divider of `CKS` 7. -/
theorem witness_WatchdogCounts :
    Wdt.reset.wtcsr.getLsbD 5 = false ∧ (Wdt.reset.writeControl 0x3F).wtcsr.getLsbD 5 = true ∧
    (timer (Wdt.reset.writeControl 0x3F)).wdt.wtcnt.toNat +
      ((timer (Wdt.reset.writeControl 0x3F)).wdt.presc + 255 * 8192) /
        (timer (Wdt.reset.writeControl 0x3F)).wdtDivider = 255 ∧
    (timer (Wdt.reset.writeControl 0x3F)).wdt.wtcnt.toNat +
      ((timer (Wdt.reset.writeControl 0x3F)).wdt.presc + 256 * 8192) /
        (timer (Wdt.reset.writeControl 0x3F)).wdtDivider = 256 ∧
    (timer (Wdt.reset.writeControl 0x3F)).wdt.wtcsr.toNat % 8 = 7 ∧
    (timer (Wdt.reset.writeControl 0x3F)).params.wdtDivider = Config.defaultParams.wdtDivider ∧
    (Wdt.reset.writeControl 0x7F).wtcsr.getLsbD 6 = true ∧
    ((Wdt.reset.writeResetPort 0x5A40).rstcsr.getLsbD 6 = true) ∧ Wdt.reset.wtcsr.getLsbD 6 = false ∧
    Wdt.reset.rstcsr.getLsbD 6 = false := by decide +kernel

theorem witness_ActiveChannelsMoveOneUnit :
    State.reset.dmaActive .ch0 = false ∧ Channel.ch1 ≠ Channel.ch0 ∧
    (match memRead (.dmac .ch0) .word 0x06001000 (node (source4 ++ [dmaor 1, ch0 0x06001000 0x06002000 1 0x5605])) with
     | .ok (v, s1) => isWritten (.dmac .ch0) .word 0x06002000 v s1
     | .error _ => false) = true ∧
    (node [ch0 0x06001000 0x06002000 1 0x5605]).dma0.unitSize = .word ∧
    (node [ch0 0x06001000 0x06002000 1 0x5605]).dma0.sourceMode ≠ 3 ∧
    (node [ch0 0x06001000 0x06002000 1 0x5605]).dma0.destMode ≠ 3 ∧
    (node [dmaor 1, ch0 0x06001000 0x06002000 8 0x5E01]).dmaActive .ch0 = true ∧
    (0x5E01 : Word).toNat / 2 ^ 10 % 4 = 3 ∧
    (node [ch0 0x06001000 0x06002000 8 0x7601]).dma0.sourceMode = 3 ∧
    (node [ch0 0x06001000 0x06002000 8 0xD601]).dma0.sourceMode ≠ 3 ∧
    (node [ch0 0x06001000 0x06002000 8 0xD601]).dma0.destMode = 3 ∧
    reads (.dmac .ch0) .word 0x06001001 (node []) (fun _ => true) = false ∧
    reads (.dmac .ch0) .word 0x06001000 (node []) (fun _ => true) = true ∧
    isWritten (.dmac .ch0) .word 0x02000000 0 (node []) = false := by decide

/-- The two ends of SDRAM, the areas adjacent, on either channel. -/
theorem witness_FourWordTransfer :
    (node [dmaor 1, ch0 0x06000000 0x0603FFF8 4 0x5601]).mem.wf = true ∧
    (node [dmaor 1, ch0 0x06000000 0x0603FFF8 4 0x5601]).params.dmaUnitsPerStep = 1 ∧
    (node [dmaor 1, ch0 0x06000000 0x0603FFF8 4 0x5601]).dmaor = 1 ∧
    ((0x06000000 : Word).toNat + 8 ≤ (0x0603FFF8 : Word).toNat) ∧ ((0x0603FFF8 : Word).toNat + 8 ≤ 0x6040000) ∧
    ((node [dmaor 1, ch1 0x06000008 0x06000000 4 0x5605]).chan .ch1).chcr = 0x5605 ∧
    ((node [dmaor 1, ch1 0x06000008 0x06000000 4 0x5605]).chan .ch1).tcr = 4 ∧
    ((0x06000000 : Word).toNat + 8 ≤ (0x06000008 : Word).toNat) := by decide

theorem witness_ResetEvent :
    (node []).params.layout = Config.defaultLayout ∧ (node []).params.cacheModel = .transparent ∧
    (node []).mem.wf = true ∧ gives (step { node [] with schedule := [.hostReset] }) (fun _ => true) = true := by decide

theorem witness_StatusRegister :
    (start [0x0009] []).sr &&& ~~~srMask = 0 ∧ gives (step (start [0x0009] [])) (fun _ => true) = true ∧
    gives (exec (.ldcSr 1) (start [] [r 1 0xFFFFFFFF])) (fun _ => true) = true ∧
    reads .core .long 0x0603FFFC (start [] ([r 1 0x0603FFFC] ++ ends)) (fun v => v == 0x55667788) = true ∧
    gives (exec (.ldcLSr 1) (start [] ([r 1 0x0603FFFC] ++ ends))) (fun _ => true) = true ∧
    gives (exec .rte (start [] ([r 15 0x0603FFF8, mL 0x0603FFF8 0x06000310] ++ ends))) (fun _ => true) = true ∧
    gives (exec (.stcSr 1) (start [] [])) (fun _ => true) = true := by decide

/-- The invariant holds of a state from which a step is answered. -/
theorem witness_Inv : Inv (start [0x0009] []) ∧ gives (step (start [0x0009] [])) (fun _ => true) = true := by
  refine ⟨⟨?_, ?_, ?_, ?_⟩, by decide⟩
  · show (start [0x0009] []).sr &&& ~~~srMask = 0; decide
  · show (start [0x0009] []).mem.wf = true; decide
  · show (start [0x0009] []).delaySlot = none; decide
  · show _ ∧ _ ∧ _ ∧ _ ∧ _ ∧ _ ∧ _ ∧ _; decide

theorem witness_RomContents :
    gives (step { node [] with schedule := [.hostReset] }) (fun t => decide (t.heldByte 0 = (node []).heldByte 0)) = true := by
  decide

theorem witness_OnlyTheListed :
    gives (exec (.addReg 1 2) (start [] [])) (fun _ => true) = true ∧ Instr.writesT (.addReg 1 2) = false ∧
    Instr.writesQ (.addReg 1 2) = false ∧ Instr.writesM (.addReg 1 2) = false ∧
    Instr.writesWholeSr (.addReg 1 2) = false ∧ Instr.writesGbr (.addReg 1 2) = false ∧
    Instr.writesVbr (.addReg 1 2) = false ∧ Instr.writesPr (.addReg 1 2) = false ∧
    Instr.writesMach (.addReg 1 2) = false ∧ Instr.writesMacl (.addReg 1 2) = false ∧ Instr.addReg 1 2 ≠ .sleep := by
  decide

end Sys2Proof.Tests
end

section
/-! PROOFS. O51: the watchdog timer's counting and its overflow (60_exceptions R483 to R487). The increments of a run are cut
at the first overflow: before it they only add to `WTCNT`, and what comes after it is the run of the cycles left over. -/

namespace Sys2Proof.Machine

/-! ### The counter and the prescaler -/

/-- `WTCNT <- b`. -/
def State.setWtcnt (s : State) (b : Byte) : State := { s with wdt := { s.wdt with wtcnt := b } }

/-- The prescaler count set to `n` (R484). -/
def State.setPresc (s : State) (n : Nat) : State := { s with wdt := { s.wdt with presc := n } }

@[simp] theorem State.setWtcnt_wtcnt (s : State) (b : Byte) : (s.setWtcnt b).wdt.wtcnt = b := rfl

@[simp] theorem State.setWtcnt_self (s : State) : s.setWtcnt s.wdt.wtcnt = s := rfl

@[simp] theorem State.setWtcnt_setWtcnt (s : State) (b c : Byte) : (s.setWtcnt b).setWtcnt c = s.setWtcnt c := rfl

@[simp] theorem State.setPresc_wtcnt (s : State) (n : Nat) : (s.setPresc n).wdt.wtcnt = s.wdt.wtcnt := rfl

/-! ### The divider -/

theorem State.wdtDivider_pos (s : State) : 0 < s.wdtDivider := PNat.pos _

/-- The divider is the parameter's entry at `CKS`, the low three bits of `WTCSR` (R483). -/
theorem State.wdtDivider_eq (s : State) :
    s.wdtDivider = s.params.wdtDivider[s.wdt.wtcsr.toNat % 8]'(Nat.mod_lt _ (by decide)) := by
  have cks : (s.wdt.wtcsr.extractLsb' 0 3).toFin.val = s.wdt.wtcsr.toNat % 8 := by simp
  simp only [State.wdtDivider, Fin.getElem_fin, cks]

/-! ### The overflow -/

/-- The state an overflow leaves where it does not reset the chip (R485 to R487). -/
def State.overflowed (s : State) : State :=
  { s with
    wdt := { s.wdt with
      wtcsr := s.wdt.wtcsr ||| 0x80
      rstcsr := if s.wdt.watchdogMode then s.wdt.rstcsr ||| 0x80 else s.wdt.rstcsr }
    intc := { s.intc with pending := { s.intc.pending with
      wdt := s.intc.pending.wdt || wdtRaises s.params s.wdt } } }

/-- Raising the timer's interrupt under a condition is a disjunction in its pending bit. -/
theorem State.setPending_wdt_if (s : State) (c : Bool) :
    (if c then s.setPending .wdt true else s) =
      { s with intc := { s.intc with pending := { s.intc.pending with wdt := s.intc.pending.wdt || c } } } := by
  cases c with
  | true => simp [State.setPending, Pending.put]
  | false => simp

/-- An overflow is refused in watchdog mode with reset enabled, and otherwise answers the overflowed state (R485 to R487). -/
theorem State.wdtOverflow_eq (s : State) :
    s.wdtOverflow =
      if s.wdt.watchdogMode && s.wdt.rstcsr.getLsbD 6 then .refused .watchdogReset else .next s.overflowed := by
  simp only [State.wdtOverflow, State.setPending_wdt_if]
  rfl

/-- The prescaler count has no part in the overflow. -/
theorem State.wdtOverflow_setPresc (s : State) (n : Nat) :
    (s.setPresc n).wdtOverflow = andThen s.wdtOverflow (fun t => .next (t.setPresc n)) := by
  rw [State.wdtOverflow_eq, State.wdtOverflow_eq s, apply_ite (andThen · _)]
  rfl

/-- An overflow leaves the timer running or stopped as it was. -/
theorem State.overflowed_tme (s : State) : s.overflowed.wdt.wtcsr.getLsbD 5 = s.wdt.wtcsr.getLsbD 5 := by
  simp [State.overflowed]

/-- An overflow leaves the divider as it was: bit 7 of `WTCSR` is not among the `CKS` bits. -/
theorem State.overflowed_wdtDivider (s : State) : s.overflowed.wdtDivider = s.wdtDivider := by
  have cks : (s.wdt.wtcsr ||| 0x80).toNat % 8 = s.wdt.wtcsr.toNat % 8 := by
    simp [BitVec.toNat_or, Nat.or_mod_two_pow (n := 3)]
  simp only [State.wdtDivider_eq, State.overflowed, cks]

/-! ### The increments -/

/-- Going on is associative. -/
theorem andThen_assoc (o : Result) (f g : State → Result) :
    andThen (andThen o f) g = andThen o (fun s => andThen (f s) g) := by
  cases o <;> rfl

/-- One increment, with the overflow where the counter returns to 0, and then the others. -/
theorem State.wdtTicks_succ (k : Nat) (s : State) :
    State.wdtTicks (k + 1) s =
      andThen
        (if s.wdt.wtcnt + 1 = 0 then (s.setWtcnt (s.wdt.wtcnt + 1)).wdtOverflow
         else .next (s.setWtcnt (s.wdt.wtcnt + 1)))
        (State.wdtTicks k) := by
  rw [apply_ite (andThen · _)]
  rfl

/-- The increments of a sum are those of its parts, one after the other. -/
theorem State.wdtTicks_add (j k : Nat) (s : State) :
    State.wdtTicks (j + k) s = andThen (State.wdtTicks j s) (State.wdtTicks k) := by
  induction j generalizing s with
  | zero => rw [Nat.zero_add]; rfl
  | succ j ih => rw [Nat.add_right_comm, State.wdtTicks_succ, State.wdtTicks_succ, andThen_assoc, funext ih]

/-- Increments that stay below 256 only add to the counter. -/
theorem State.wdtTicks_below {k : Nat} {s : State} (h : s.wdt.wtcnt.toNat + k < 256) :
    State.wdtTicks k s = .next (s.setWtcnt (s.wdt.wtcnt + BitVec.ofNat 8 k)) := by
  induction k generalizing s with
  | zero => simp [State.wdtTicks]
  | succ k ih =>
    have nonzero : s.wdt.wtcnt + 1 ≠ 0 := by bv_omega
    have below : (s.setWtcnt (s.wdt.wtcnt + 1)).wdt.wtcnt.toNat + k < 256 := by
      rw [State.setWtcnt_wtcnt]; bv_omega
    have count : s.wdt.wtcnt + 1 + BitVec.ofNat 8 k = s.wdt.wtcnt + BitVec.ofNat 8 (k + 1) := by bv_omega
    calc State.wdtTicks (k + 1) s
        = State.wdtTicks k (s.setWtcnt (s.wdt.wtcnt + 1)) := by rw [State.wdtTicks_succ, if_neg nonzero]; rfl
      _ = .next (s.setWtcnt (s.wdt.wtcnt + BitVec.ofNat 8 (k + 1))) := by
        rw [ih below, State.setWtcnt_wtcnt, State.setWtcnt_setWtcnt, count]

/-- As many increments as bring the counter to 256 end in the overflow, at `WTCNT` 0. -/
theorem State.wdtTicks_to_overflow (k : Nat) (s : State) :
    State.wdtTicks (256 - s.wdt.wtcnt.toNat + k) s = andThen (s.setWtcnt 0).wdtOverflow (State.wdtTicks k) := by
  have parts : 256 - s.wdt.wtcnt.toNat + k = 255 - s.wdt.wtcnt.toNat + (k + 1) := by bv_omega
  have last : s.wdt.wtcnt + BitVec.ofNat 8 (255 - s.wdt.wtcnt.toNat) + 1 = 0 := by bv_omega
  rw [parts, State.wdtTicks_add, State.wdtTicks_below (by bv_omega)]
  show State.wdtTicks (k + 1) _ = _
  rw [State.wdtTicks_succ, State.setWtcnt_wtcnt, State.setWtcnt_setWtcnt, last, if_pos rfl]

/-! ### The run -/

/-- A stopped timer does not move (R484). -/
theorem State.wdtRun_stopped {s : State} (off : s.wdt.wtcsr.getLsbD 5 = false) (cycles : Nat) :
    s.wdtRun cycles = .next s := by
  rw [State.wdtRun, off]
  rfl

/-- A running timer increments once for each whole divider and keeps the rest (R484). -/
theorem State.wdtRun_running {s : State} (on : s.wdt.wtcsr.getLsbD 5 = true) (cycles : Nat) :
    s.wdtRun cycles = State.wdtTicks ((s.wdt.presc + cycles) / s.wdtDivider)
      (s.setPresc ((s.wdt.presc + cycles) % s.wdtDivider)) := by
  simp only [State.wdtRun, on, if_true]
  rfl

/-- Below overflow, the run adds the whole dividers to the counter and keeps the rest in the prescaler (R484). -/
theorem State.wdtRun_below {s : State} {cycles : Nat} (on : s.wdt.wtcsr.getLsbD 5 = true)
    (h : s.wdt.wtcnt.toNat + (s.wdt.presc + cycles) / s.wdtDivider < 256) :
    s.wdtRun cycles =
      .next ((s.setPresc ((s.wdt.presc + cycles) % s.wdtDivider)).setWtcnt
        (s.wdt.wtcnt + BitVec.ofNat 8 ((s.wdt.presc + cycles) / s.wdtDivider))) := by
  rw [State.wdtRun_running on, State.wdtTicks_below (by rwa [State.setPresc_wtcnt]), State.setPresc_wtcnt]

/-- After an overflow at prescaler count 0, the run of `rest` cycles is the increments of its whole dividers. -/
theorem State.wdtRun_after_overflow {s : State} (on : s.wdt.wtcsr.getLsbD 5 = true) (rest : Nat) :
    andThen (s.setPresc 0).wdtOverflow (fun t => t.wdtRun rest) =
      andThen (s.setPresc (rest % s.wdtDivider)).wdtOverflow (State.wdtTicks (rest / s.wdtDivider)) := by
  have run : (s.overflowed.setPresc 0).wdtRun rest =
      State.wdtTicks (rest / s.wdtDivider) (s.overflowed.setPresc (rest % s.wdtDivider)) := by
    have divider : (s.overflowed.setPresc 0).wdtDivider = s.wdtDivider := s.overflowed_wdtDivider
    have total : (s.overflowed.setPresc 0).wdt.presc + rest = rest := Nat.zero_add rest
    rw [State.wdtRun_running (s := s.overflowed.setPresc 0) (s.overflowed_tme.trans on), divider, total]
    rfl
  rw [State.wdtOverflow_setPresc, State.wdtOverflow_setPresc, State.wdtOverflow_eq]
  split
  · rfl
  · exact run

/-- Where the count reaches 256, the run is the overflow and then the run of the cycles left over. -/
theorem State.wdtRun_overflows {s : State} {cycles : Nat} (on : s.wdt.wtcsr.getLsbD 5 = true)
    (h : 256 ≤ s.wdt.wtcnt.toNat + (s.wdt.presc + cycles) / s.wdtDivider) :
    s.wdtRun cycles = andThen ((s.setWtcnt 0).setPresc 0).wdtOverflow
      (fun t => t.wdtRun (s.wdt.presc + cycles - (256 - s.wdt.wtcnt.toNat) * s.wdtDivider)) := by
  obtain ⟨rest, hrest⟩ : ∃ rest, s.wdt.presc + cycles = rest + (256 - s.wdt.wtcnt.toNat) * s.wdtDivider := by
    have whole : (256 - s.wdt.wtcnt.toNat) * s.wdtDivider ≤ s.wdt.presc + cycles := by
      rw [← Nat.le_div_iff_mul_le s.wdtDivider_pos]; omega
    exact ⟨_, (Nat.sub_add_cancel whole).symm⟩
  rw [State.wdtRun_running on, hrest, Nat.add_sub_cancel, Nat.add_mul_mod_self_right,
    Nat.add_mul_div_right _ _ s.wdtDivider_pos, Nat.add_comm (rest / _)]
  calc State.wdtTicks (256 - s.wdt.wtcnt.toNat + rest / s.wdtDivider) (s.setPresc (rest % s.wdtDivider))
      = andThen ((s.setWtcnt 0).setPresc (rest % s.wdtDivider)).wdtOverflow (State.wdtTicks (rest / s.wdtDivider)) :=
        State.wdtTicks_to_overflow _ (s.setPresc (rest % s.wdtDivider))
    _ = andThen ((s.setWtcnt 0).setPresc 0).wdtOverflow (fun t => t.wdtRun rest) :=
        (State.wdtRun_after_overflow (s := s.setWtcnt 0) on rest).symm

/-- Settles O51: the run is cut at its first overflow, and the overflow is read off `State.wdtOverflow_eq`. -/
theorem watchdogCountsAndOverflows : Obligations.WatchdogCountsAndOverflows := by
  refine ⟨fun _ _ => rfl, fun s cycles => ⟨?stopped, ?below, ?overflow, ?refused, ?answered⟩, ?dividers⟩
  case stopped => exact fun off => State.wdtRun_stopped off cycles
  case below =>
    intro on h
    rw [State.wdtRun_below on h]
    rfl
  case overflow => exact State.wdtRun_overflows
  case refused =>
    intro watchdog rste
    rw [State.wdtOverflow_eq, Wdt.watchdogMode, watchdog, rste]
    rfl
  case answered =>
    intro h
    have noReset : ¬ (s.wdt.watchdogMode && s.wdt.rstcsr.getLsbD 6) = true := by
      simpa [Wdt.watchdogMode, ← Bool.not_eq_true, imp_iff_not_or] using h
    refine ⟨s.overflowed, ?_, rfl, rfl, rfl, rfl, rfl, rfl⟩
    rw [State.wdtOverflow_eq, if_neg noReset]
  case dividers =>
    intro s hd row hrow hcks
    have table : ∀ row ∈ ([(0, 2), (1, 64), (2, 128), (3, 256), (4, 512), (5, 1024), (6, 4096), (7, 8192)] :
        List (Nat × Nat)), ∀ h : row.1 < 8, (Config.defaultParams.wdtDivider[row.1] : Nat) = row.2 := by decide
    simp only [State.wdtDivider_eq, hd, hcks]
    exact table row hrow _

end Sys2Proof.Machine
end

section
/-! PROOFS. Lemmas the proofs below share: bits under a mask; what a memory access, a draw and the moves of other agents leave
of the core (20_memory R94); what taking an exception (60_exceptions R404) or returning from one (45_system R345) does to it. -/

namespace Sys2Proof.Machine

/-! ### Bits under a mask -/

/-- Setting a bit that a mask leaves out does not show through the mask. -/
theorem withBit_and {w : Nat} {mask : BitVec w} {i : Nat} (h : mask.getLsbD i = false) (v : BitVec w) (b : Bool) :
    withBit v i b &&& mask = v &&& mask := by
  ext k hk
  have bit : (withBit v i b)[k] = if k = i then b else v[k] := by
    simpa [hk, BitVec.getLsbD_eq_getElem] using withBit_getLsbD v i k b
  rw [BitVec.getElem_and, BitVec.getElem_and, bit]
  split
  · subst i; simp [← BitVec.getLsbD_eq_getElem hk, h]
  · rfl

/-- A value cut to some bits is 0 in bits apart from them. -/
theorem and_and_eq_zero {w : Nat} {kept reserved : BitVec w} (h : kept &&& reserved = 0) (v : BitVec w) :
    v &&& kept &&& reserved = 0 := by
  rw [BitVec.and_assoc, h]; exact BitVec.and_zero

/-- Setting bits that a mask leaves out does not show through the mask. -/
theorem or_and_of_apart {w : Nat} {bits mask : BitVec w} (h : bits &&& mask = 0) (v : BitVec w) :
    (v ||| bits) &&& mask = v &&& mask := by
  rw [BitVec.and_comm, BitVec.and_or_distrib_left, BitVec.and_comm mask bits, h, BitVec.and_comm]
  exact BitVec.or_zero

/-- Bits that are set in a value are set after setting others. -/
theorem or_and_eq_self {w : Nat} (v mask : BitVec w) : (v ||| mask) &&& mask = mask := by
  ext i hi
  simp +contextual

/-- A bit of a mask under which a value is 0. -/
theorem getLsbD_of_and_eq_zero {w : Nat} {v mask : BitVec w} (h : v &&& mask = 0) {i : Nat} (hm : mask.getLsbD i = true) :
    v.getLsbD i = false := by
  simpa [hm] using congrArg (·.getLsbD i) h

/-! ### The core's registers under accesses and moves -/

/-- The registers of the core, its run state and the parameters are the same. -/
structure SameCpu (s t : State) : Prop where
  params : t.params = s.params
  regs : t.regs = s.regs
  pc : t.pc = s.pc
  sr : t.sr = s.sr
  gbr : t.gbr = s.gbr
  vbr : t.vbr = s.vbr
  mach : t.mach = s.mach
  macl : t.macl = s.macl
  pr : t.pr = s.pr
  delaySlot : t.delaySlot = s.delaySlot
  run : t.run = s.run

theorem SameCpu.trans {r s t : State} (h1 : SameCpu r s) (h2 : SameCpu s t) : SameCpu r t where
  params := h2.params.trans h1.params
  regs := h2.regs.trans h1.regs
  pc := h2.pc.trans h1.pc
  sr := h2.sr.trans h1.sr
  gbr := h2.gbr.trans h1.gbr
  vbr := h2.vbr.trans h1.vbr
  mach := h2.mach.trans h1.mach
  macl := h2.macl.trans h1.macl
  pr := h2.pr.trans h1.pr
  delaySlot := h2.delaySlot.trans h1.delaySlot
  run := h2.run.trans h1.run

theorem SameCpu.reg {s t : State} (h : SameCpu s t) (k : Reg) : t.reg k = s.reg k := by
  rw [State.reg, State.reg, h.regs]

theorem SameCore.sameCpu {s t : State} (h : SameCore s t) : SameCpu s t := by
  rw [h]; constructor <;> rfl

theorem SameElsewhere.sameCpu {s t : State} (h : SameElsewhere s t) : SameCpu s t := by
  rw [h]; constructor <;> rfl

/-- A read takes at most a draw, so the core's registers stay. -/
theorem memReadVia_sameCpu {cached : Bool} {ag : Agent} {sz : Size} {addr v : Word} {s t : State}
    (h : memReadVia cached ag sz addr s = .ok (v, t)) : SameCpu s t := by
  rw [memReadVia_frame h]; constructor <;> rfl

theorem memRead_sameCpu {ag : Agent} {sz : Size} {addr v : Word} {s t : State}
    (h : memRead ag sz addr s = .ok (v, t)) : SameCpu s t := memReadVia_sameCpu h

theorem memWrite_sameCpu {ag : Agent} {sz : Size} {addr v : Word} {s t : State}
    (h : memWrite ag sz addr v s = .ok t) : SameCpu s t := (memWrite_sameCore h).sameCpu

theorem setDraws_sameCpu (s : State) (n : Nat) : SameCpu s { s with draws := n } := by constructor <;> rfl

/-- What falls inside an instruction leaves the core alone (R94). -/
theorem interpose_sameCpu {s t : State} (h : interpose s = .next t) : SameCpu s t := by
  have inside : SameCpu s { s with inside := s.inside.tail } := by constructor <;> rfl
  exact inside.trans (interpose_elsewhere h).sameCpu

/-- A property of what the other agents leave alone is kept by every move of theirs. -/
theorem closedMoves_of_elsewhere {P : State → Prop} (hP : ∀ s t, SameElsewhere s t → P s → P t) : ClosedMoves P where
  dma _ s t h ht := hP s t (dmaUnit_elsewhere ht) h
  wdt s n h t ht := hP s t ((closedMoves_elsewhere s).wdt s n rfl t ht) h
  raise s b h := hP s _ ((closedMoves_elsewhere s).raise s b rfl) h
  trigger s c v h := hP s _ ((closedMoves_elsewhere s).trigger s c v rfl) h
  swap s h := hP s _ ((closedMoves_elsewhere s).swap s rfl) h
  frame s off v h := hP s _ ((closedMoves_elsewhere s).frame s off v rfl) h
  other s sz a v h := hP s _ ((closedMoves_elsewhere s).other s sz a v rfl) h

theorem State.acceptSource_sameCpu (s : State) (src : Source) : SameCpu s (s.acceptSource src) := by
  cases src <;> constructor <;> rfl

theorem SameCpu.setReg {s t : State} (h : SameCpu s t) (i : Reg) (v : Word) : SameCpu (s.setReg i v) (t.setReg i v) :=
  { h with regs := congrArg (·.set i.val v) h.regs }

theorem SameCpu.setPc {s t : State} (h : SameCpu s t) (v : Word) : SameCpu { s with pc := v } { t with pc := v } :=
  { h with pc := rfl }

theorem SameCpu.withMask {s t : State} (h : SameCpu s t) (l : Option (BitVec 4)) : SameCpu (s.withMask l) (t.withMask l) := by
  cases l with
  | none => exact h
  | some l => exact { h with sr := congrArg (fun sr => (sr &&& ~~~(0xF0 : Word)) ||| (l.setWidth 32 <<< 4)) h.sr }

/-- A reset that succeeds leaves the core as cleared, but for `pc` and `R15` (R501). -/
theorem systemReset_sameCpu {s t : State} (h : systemReset s = .ok t) :
    SameCpu { s.clearForReset.setReg 15 (t.reg 15) with pc := t.pc } t := by
  obtain ⟨pc, sp, s1, s2, h1, h2, rfl⟩ := systemReset_ok h
  rw [State.reg_setReg_self]
  exact (((memRead_sameCpu h1).trans (memRead_sameCpu h2)).setReg 15 sp).setPc pc

/-- Of two writes of one register the second stays. -/
theorem State.setReg_setReg (s : State) (i : Reg) (v w : Word) : (s.setReg i v).setReg i w = s.setReg i w := by
  simp only [State.setReg, Vector.set_set]

/-- A new level is written to `SR` alone (R404). -/
theorem State.withMask_frame (s : State) (l : Option (BitVec 4)) : s.withMask l = { s with sr := (s.withMask l).sr } := by
  cases l <;> rfl

/-! ### Taking an exception and returning from one -/

/-- After a push to `R15`, `R15` is pushed to 8 lower than it was (R404). -/
theorem second_push_address {s s2 : State} (h : SameCpu (s.setReg 15 (s.reg 15 - 4)) s2) :
    s2.reg 15 - 4 = s.reg 15 - 8 := by
  rw [h.reg, State.reg_setReg_self]; bv_omega

/-- Where no other agent moves inside, an entry is two pushes and the read of the vector's longword (R404). -/
theorem enter_next_quiet {vector : Nat} {savedPc : Word} {newImask : Option (BitVec 4)} {s t : State}
    (quiet : s.inside = []) (h : enter vector savedPc newImask s = .next t) :
    ∃ s1 s3 handler s5,
      memWrite .core .long (s.reg 15 - 4) s.sr (s.setReg 15 (s.reg 15 - 4)) = .ok s1 ∧
      memWrite .core .long (s.reg 15 - 8) savedPc (s1.setReg 15 (s.reg 15 - 8)) = .ok s3 ∧
      memRead .core .long (vectorAddress (s3.withMask newImask) vector) (s3.withMask newImask) = .ok (handler, s5) ∧
      t = { s5 with pc := handler } := by
  obtain ⟨s1, s2, s3, s4, handler, s5, hw1, hi1, hw2, hi2, hr, rfl⟩ := enter_next h
  have inside1 : s1.inside = [] := by rw [memWrite_sameCore hw1]; exact quiet
  rw [interpose_nil inside1] at hi1
  cases hi1
  have inside3 : (s3.withMask newImask).inside = [] := by
    rw [State.withMask_frame, memWrite_sameCore hw2]; exact inside1
  rw [interpose_nil inside3] at hi2
  cases hi2
  rw [second_push_address (memWrite_sameCpu hw1)] at hw2
  exact ⟨s1, s3, handler, s5, hw1, hw2, hr, rfl⟩

/-- Taking an exception changes `R15`, `IMASK` where one is given, and `pc`; no other register of the core (R404). -/
theorem enter_sameCpu {vector : Nat} {savedPc : Word} {newImask : Option (BitVec 4)} {s t : State}
    (h : enter vector savedPc newImask s = .next t) :
    SameCpu { s.setReg 15 (s.reg 15 - 8) with sr := (s.withMask newImask).sr, pc := t.pc } t := by
  obtain ⟨s1, s2, s3, s4, handler, s5, hw1, hi1, hw2, hi2, hr, rfl⟩ := enter_next h
  have c2 : SameCpu (s.setReg 15 (s.reg 15 - 4)) s2 := (memWrite_sameCpu hw1).trans (interpose_sameCpu hi1)
  have c3 : SameCpu (s.setReg 15 (s.reg 15 - 8)) s3 := by
    have pushed := (c2.setReg 15 (s2.reg 15 - 4)).trans (memWrite_sameCpu hw2)
    rwa [second_push_address c2, State.setReg_setReg] at pushed
  have c5 := (((c3.withMask newImask).trans (interpose_sameCpu hi2)).trans (memRead_sameCpu hr)).setPc handler
  have sr : ((s.setReg 15 (s.reg 15 - 8)).withMask newImask).sr = (s.withMask newImask).sr := by cases newImask <;> rfl
  rwa [State.withMask_frame, sr] at c5

/-- Returning from an exception: two pops, other agents' moves in between, `SR` masked, the saved `PC` latched (R345). -/
theorem returnFromException_next {s t : State} (h : returnFromException s = .next t) :
    ∃ target s1 s2 v s3, memRead .core .long (s.reg 15) s = .ok (target, s1) ∧
      interpose (s1.setReg 15 (s1.reg 15 + 4)) = .next s2 ∧ memRead .core .long (s2.reg 15) s2 = .ok (v, s3) ∧
      t = { (s3.setReg 15 (s3.reg 15 + 4)).setSr v with delaySlot := some target, pc := s3.pc + 2 } := by
  obtain ⟨target, s1, h1, h⟩ := loadThen_next h
  obtain ⟨s2, hi, h⟩ := andThen_next h
  obtain ⟨v, s3, h2, h⟩ := loadThen_next h
  cases h
  exact ⟨target, s1, s2, v, s3, h1, hi, h2, rfl⟩

end Sys2Proof.Machine
end

section
/-! PROOFS. O57: the status register (10_state R29). Every step keeps its reserved bits 0; the instructions that write it as a
whole mask the value; what `STC.L` and an entry push is the masked value, and an entry's frame in SDRAM holds it. -/

namespace Sys2Proof.Machine

/-! ### The fields of the status register -/

/-- The bits of `IMASK` (R28). -/
theorem imaskBits_getLsbD (i : Nat) : (0xF0 : Word).getLsbD i = decide (4 ≤ i ∧ i < 8) := by
  by_cases h : i < 8
  · interval_cases i <;> decide
  · have wide : (0xF0 : Word) = (0xF0 : Byte).setWidth 32 := by decide
    rw [wide, BitVec.getLsbD_setWidth, BitVec.getLsbD_of_ge _ _ (by omega)]
    simp [h]

/-- Setting `IMASK` is seen in bits 4 to 7 of `SR` only (R33). -/
theorem State.setImask_getLsbD (s : State) (l : BitVec 4) (i : Nat) :
    (s.setImask l).sr.getLsbD i = if 4 ≤ i ∧ i < 8 then l.getLsbD (i - 4) else s.sr.getLsbD i := by
  simp only [State.setImask, BitVec.getLsbD_or, BitVec.getLsbD_and, BitVec.getLsbD_not, imaskBits_getLsbD,
    BitVec.getLsbD_shiftLeft, BitVec.getLsbD_setWidth]
  by_cases h : 4 ≤ i ∧ i < 8
  · have : i < 32 ∧ i - 4 < 32 ∧ ¬ i < 4 := by omega
    simp [h, this]
  · rcases Nat.lt_or_ge i 32 with hi | hi
    · by_cases low : i < 4
      · simp [h, hi, low]
      · simp [h, hi, low, BitVec.getLsbD_of_ge l (i - 4) (by omega)]
    · simp [h, BitVec.getLsbD_of_ge s.sr i hi, BitVec.getLsbD_of_ge l (i - 4) (by omega)]

/-- The level set is what `IMASK` then holds (R33). -/
@[simp] theorem State.setImask_imask (s : State) (l : BitVec 4) : (s.setImask l).imask = l := by
  ext i hi
  have field : 4 ≤ 4 + i ∧ 4 + i < 8 := by omega
  rw [State.imask, BitVec.getElem_extractLsb', State.setImask_getLsbD, if_pos field, Nat.add_sub_cancel_left,
    BitVec.getLsbD_eq_getElem]

/-- Setting `IMASK` changes the four bits of `IMASK` only (R33). -/
theorem State.setImask_sameSr (s : State) (l : BitVec 4) : SameSrBut [4, 5, 6, 7] s (s.setImask l) := by
  intro i hi
  have outside : ¬ (4 ≤ i ∧ i < 8) := by simp at hi; omega
  rw [State.setImask_getLsbD, if_neg outside]

/-- A pushed stack pointer differs in `R15` alone. -/
theorem sameRegsBut_setReg (s : State) (n : Reg) (v : Word) : SameRegsBut [n] s (s.setReg n v) := by
  intro k hk
  exact State.reg_setReg_ne s (by simpa using hk) v

theorem masked_setImask {v : Word} (h : v &&& ~~~srMask = 0) (l : BitVec 4) :
    ((v &&& ~~~(0xF0 : Word)) ||| (l.setWidth 32 <<< 4)) &&& ~~~srMask = 0 := by
  have level : (l.setWidth 32 <<< 4 : Word) &&& ~~~srMask = 0 := by revert l; decide
  rw [or_and_of_apart level, BitVec.and_assoc, BitVec.and_comm (~~~_), ← BitVec.and_assoc, h]
  exact BitVec.zero_and

/-! ### Taking an exception, access by access -/

/-- A push changes the bytes of its own longword alone. -/
theorem push_heldByte {ea sp v : Word} {r s t : State} (hp : s.params = r.params)
    (h : memWrite .core .long ea v (s.setReg 15 sp) = .ok t) : SameBytesBut (storedBytes r .long ea) s t := by
  have same : storedBytes r .long ea = storedBytes (s.setReg 15 sp) .long ea := by
    rw [storedBytes, storedBytes, State.setReg_params, hp]
  rw [same]
  exact memWrite_heldByte h

theorem stopsWith_andThen {m o : Result} {k : State → Result} (h : o = andThen m k) : StopsWith m o := by
  subst h
  exact ⟨fun f e => by rw [e]; rfl, fun r e => by rw [e]; rfl⟩

/-- The third access of an entry: control goes to the vector's longword (R404). -/
def readHandler (vector : Nat) (s : State) : Result :=
  loadThen .long (vectorAddress s vector) s (fun handler t => jump handler t)

/-- An entry from its second push on (R404). -/
def pushReturn (vector : Nat) (savedPc : Word) (newImask : Option (BitVec 4)) (s : State) : Result :=
  pushThen savedPc s (fun t => andThen (interpose (t.withMask newImask)) (readHandler vector))

/-- An entry is its first push, then what falls there, then the rest (R94, R404). -/
theorem enter_eq (vector : Nat) (savedPc : Word) (newImask : Option (BitVec 4)) (s : State) :
    enter vector savedPc newImask s =
      pushThen s.sr s (fun t => andThen (interpose t) (pushReturn vector savedPc newImask)) := rfl

/-- What an entry leaves of `SR`: all but `IMASK`, which is the new level where one is given (R404). -/
theorem State.withMask_sr (s : State) (newImask : Option (BitVec 4)) :
    SameSrBut [4, 5, 6, 7] s (s.withMask newImask) ∧ (newImask = none → (s.withMask newImask).sr = s.sr) ∧
      ∀ l, newImask = some l → (s.withMask newImask).imask = l := by
  cases newImask with
  | none => exact ⟨fun _ _ => rfl, fun _ => rfl, fun _ => (nomatch ·)⟩
  | some l => exact ⟨State.setImask_sameSr s l, (nomatch ·), fun _ e => by cases e; exact State.setImask_imask s l⟩

/-- Taking an exception is the entry of R404, access by access. -/
theorem enter_entersHandler (vector : Nat) (savedPc : Word) (newImask : Option (BitVec 4)) (s : State) :
    EntersHandler (enter vector savedPc newImask s) vector savedPc newImask s := by
  obtain ⟨o, entered⟩ : ∃ o, enter vector savedPc newImask s = o := ⟨_, rfl⟩
  rw [entered]
  have ho := (enter_eq vector savedPc newImask s).symm.trans entered
  refine ⟨fun f hw => ho ▸ storeThen_error hw _, fun s1 hw1 => ?_⟩
  replace ho : andThen (interpose s1) (pushReturn vector savedPc newImask) = o := (storeThen_ok hw1 _).symm.trans ho
  refine ⟨push_heldByte rfl hw1, stopsWith_andThen ho.symm, fun s2 hi1 => ?_⟩
  have c2 : SameCpu (s.setReg 15 (s.reg 15 - 4)) s2 := (memWrite_sameCpu hw1).trans (interpose_sameCpu hi1)
  replace ho : storeThen .long (s.reg 15 - 8) savedPc (s2.setReg 15 (s.reg 15 - 8))
      (fun t => andThen (interpose (t.withMask newImask)) (readHandler vector)) = o := by
    rw [← ho, hi1, ← second_push_address c2]; rfl
  refine ⟨fun f hw => ho ▸ storeThen_error hw _, fun s3 hw2 => ?_⟩
  replace ho : andThen (interpose (s3.withMask newImask)) (readHandler vector) = o := (storeThen_ok hw2 _).symm.trans ho
  refine ⟨push_heldByte c2.params hw2, stopsWith_andThen ho.symm, fun s4 hi2 => ?_⟩
  have vbr : s4.vbr = s.vbr := by
    rw [(interpose_sameCpu hi2).vbr, State.withMask_frame]
    exact (memWrite_sameCpu hw2).vbr.trans c2.vbr
  replace ho : loadThen .long (s.vbr + BitVec.ofNat 32 (4 * vector)) s4 (fun handler t => jump handler t) = o := by
    rw [← ho, hi2, ← vbr]; rfl
  refine ⟨fun f hr => ho ▸ loadThen_error hr _, fun handler s5 hr => ?_⟩
  replace ho : jump handler s5 = o := (loadThen_ok hr _).symm.trans ho
  have c := enter_sameCpu (entered.trans ho.symm)
  obtain ⟨sameSr, srNone, imaskSome⟩ := s.withMask_sr newImask
  have imask : State.imask { s5 with pc := handler } = (s.withMask newImask).imask := congrArg (·.extractLsb' 4 4) c.sr
  refine ⟨{ s5 with pc := handler }, ho.symm, rfl, ?bytes, ?sp, ?regs, ?srBits, c.sr.trans ∘ srNone,
    fun l e => imask.trans (imaskSome l e), c.gbr, c.vbr, c.pr, c.mach, c.macl, c.run, c.delaySlot⟩
  case bytes => rw [memRead_frame hr]; exact fun _ => rfl
  case sp => exact (c.reg 15).trans (s.reg_setReg_self 15 _)
  case regs => exact fun k hk => (c.reg k).trans (sameRegsBut_setReg s 15 _ k hk)
  case srBits => exact fun i hi => (congrArg (·.getLsbD i) c.sr).trans (sameSr i hi)

/-! ### `STC.L` -/

/-- What `MOV`, `STC.L` and `STS.L` to `@-Rn` do: they are `storeDec` (R151 to R153, R340 to R342, R347 to R349). -/
theorem storesStepping_of_storeDec {i : Instr} {sz : Size} {n : Reg} {v : Word} {s : State}
    (h : exec i s = storeDec sz n v s) : StoresStepping i sz n v s := by
  refine ⟨fun s1 hw => ?_, fun f hw => h.trans (storeThen_error hw _)⟩
  have c := memWrite_sameCpu hw
  have pc : s1.pc + 2 = s.pc + 2 := by rw [c.pc]
  refine ⟨(s1.setReg n (s.reg n - BitVec.ofNat 32 sz.bytes)).advance, h.trans (storeThen_ok hw _), ?state,
    s1.reg_setReg_self n _, ?regs, ?srBits, ?bytes, ?frame, ?quiet⟩
  case state => rw [← pc]; rfl
  case regs => exact fun k hk => (State.reg_setReg_ne s1 (by simpa using hk) _).trans (c.reg k)
  case srBits => exact fun i _ => congrArg (·.getLsbD i) c.sr
  case bytes => exact fun a ha => memWrite_heldByte hw a ha
  case frame => rw [memWrite_sameCore hw]; rfl
  case quiet => intro hc; rw [memWrite_bytesOnly hw hc]; rfl

/-! ### The masked status register over every step -/

/-- Setting one of the meaningful bits keeps the reserved bits 0 (R29). -/
theorem maskedSr_withBit {s : State} (h : MaskedSr s) {i : Nat} (hi : (~~~srMask).getLsbD i = false) (b : Bool) :
    withBit s.sr i b &&& ~~~srMask = 0 := (withBit_and hi s.sr b).trans h

theorem SameCpu.maskedSr {s t : State} (h : SameCpu s t) (hs : MaskedSr s) : MaskedSr t := by
  rwa [MaskedSr, h.sr]

theorem drawnSr_masked (k : Nat) : drawnSr k &&& ~~~srMask = 0 := by
  rw [drawnSr, or_and_of_apart (and_and_eq_zero (by decide) _)]
  decide

theorem closedNode_maskedSr : ClosedNode MaskedSr where
  core := {
    setReg := fun _ _ _ h => h
    setFlow := fun _ _ _ h => h
    setSr := fun _ v _ => and_and_eq_zero (by decide) v
    setT := fun _ b h => maskedSr_withBit h (by decide) b
    setQ := fun _ b h => maskedSr_withBit h (by decide) b
    setM := fun _ b h => maskedSr_withBit h (by decide) b
    setImask := fun _ l h => masked_setImask h l
    setMach := fun _ _ h => h
    setMacl := fun _ _ h => h
    setBoth := fun _ _ _ h => h
    setGbr := fun _ _ h => h
    setVbr := fun _ _ h => h
    setPr := fun _ _ h => h
    setRun := fun _ _ h => h
    setDraws := fun _ _ h => h
    acceptSource := fun s src h => (s.acceptSource_sameCpu src).maskedSr h
    write := fun h hw => (memWrite_sameCpu hw).maskedSr h
    moves := closedMoves_of_elsewhere fun _ _ hst => hst.sameCpu.maskedSr
    inside := fun _ _ h => h }
  schedule := fun _ _ h => h
  reset := fun s t _ ht => (systemReset_sameCpu ht).maskedSr (drawnSr_masked s.draws)

/-! ### A byte of SDRAM that the core wrote last -/

/-- The byte at `a` is `b`, and a read through the cache sees it too: the core itself wrote it last (R98). -/
def State.CoreWrote (s : State) (a : Nat) (b : Byte) : Prop :=
  s.heldByte a = some b ∧ (s.params.cacheModel = .staleDraw → s.writtenAround a = false)

/-- Where every byte of a list is laid out as the core wrote it last. -/
def State.CoreWroteAll (s : State) (a : Nat) (bs : List Byte) : Prop :=
  ∀ c ∈ cellsAt a bs, s.CoreWrote c.1 c.2

/-- Bytes laid out one after another are held at their places (R60). -/
theorem State.heldByte_writeCells_cellsAt (bs : List Byte) : ∀ {s : State} (a : Nat), s.mem.wf = true →
    ∀ c ∈ cellsAt a bs, (s.writeCells (cellsAt a bs)).heldByte c.1 = some c.2 := by
  induction bs with
  | nil => exact fun _ _ c hc => nomatch hc
  | cons b bs ih =>
    intro s a hwf c hc
    rw [cellsAt, State.writeCells_cons]
    rcases List.mem_cons.mp hc with rfl | hc
    · have later : a ∉ (cellsAt (a + 1) bs).map (·.1) := by
        rw [cellsAt_addresses, List.mem_range']; omega
      rw [State.heldByte_writeCells_of_not_mem _ _ later, State.heldByte_writeCells_one hwf, if_pos rfl]
    · exact ih (a + 1) (State.wf_writeCells hwf _) c hc

/-- The bytes a write keeps the earlier values of were last written by its writer (R98). -/
theorem State.writtenAround_keepCells (f : Bool) (a : Nat) (cs : List Host.Cell) : ∀ {s : State},
    s.params.cacheModel = .staleDraw →
    (s.keepCells f cs).writtenAround a = if a ∈ cs.map (·.1) then f else s.writtenAround a := by
  induction cs with
  | nil => intros; rfl
  | cons c cs ih =>
    intro s hm
    have hm' : (s.keepEarlier f c.1 (s.heldByte c.1)).params.cacheModel = .staleDraw := by
      rw [State.keepEarlier_frame]; exact hm
    rw [State.keepCells, ih hm', State.writtenAround_keepEarlier hm]
    by_cases later : a ∈ cs.map (·.1)
    · simp [later]
    · by_cases here : a = c.1 <;> simp [later, here]

/-- After a write of the core through its cache the bytes written are those the core wrote last. -/
theorem State.coreWroteAll_storeCells {s : State} (hwf : s.mem.wf = true) (a : Nat) (bs : List Byte) :
    (s.storeCells false (cellsAt a bs)).CoreWroteAll a bs := by
  intro c hc
  refine ⟨?_, fun hm => ?_⟩
  · rw [State.heldByte_storeCells]
    exact State.heldByte_writeCells_cellsAt bs a hwf c hc
  · have hm' : s.params.cacheModel = .staleDraw := by rwa [State.storeCells_eq] at hm
    exact (State.writtenAround_keepCells false c.1 _ hm').trans (if_pos (List.mem_map_of_mem hc))

/-- A write elsewhere leaves the byte as the core wrote it. -/
theorem State.CoreWrote.storeCells {s : State} {a : Nat} {b : Byte} (h : s.CoreWrote a b) (f : Bool)
    {cs : List Host.Cell} (ha : a ∉ cs.map (·.1)) : (s.storeCells f cs).CoreWrote a b := by
  refine ⟨?_, fun hm => ?_⟩
  · rw [State.heldByte_storeCells, State.heldByte_writeCells_of_not_mem cs s ha]
    exact h.1
  · have hm' : s.params.cacheModel = .staleDraw := by rwa [State.storeCells_eq] at hm
    exact (State.writtenAround_keepCells f a cs hm').trans ((if_neg ha).trans (h.2 hm'))

/-- A read finds the byte the core wrote last, through the cache and around it. -/
theorem State.CoreWrote.readByte {s : State} {a : Nat} {b : Byte} (h : s.CoreWrote a b) {cached : Bool}
    (hc : cached = true → s.params.cacheModel = .staleDraw) (ha : Config.frameBufferStore ≤ a) (lane : Nat) :
    s.readByte cached a lane = b := by
  have latest : cached = false ∨ s.earlier a = [] := by
    cases cached with
    | false => exact .inl rfl
    | true => exact .inr (by rw [State.earlier, h.2 (hc rfl)]; rfl)
  have image : inCartPadding s.cartLength a = false := by
    simp [inCartPadding, Nat.not_lt.mpr ha]
  rw [State.readByte, image, State.pick_latest s latest, h.1]
  rfl

/-- A read of SDRAM returns the bytes the core wrote last, most significant first. -/
theorem State.regionBytes_coreWroteAll {s : State} {cached : Bool}
    (hc : cached = true → s.params.cacheModel = .staleDraw) (bs : List Byte) : ∀ (off lane : Nat),
    s.CoreWroteAll (Config.sdramStore + off) bs → s.regionBytes cached .sdram off lane bs.length = bs := by
  induction bs with
  | nil => intros; rfl
  | cons b bs ih =>
    intro off lane h
    have first : s.readByte cached (Config.sdramStore + off) lane = b :=
      (h _ List.mem_cons_self).readByte hc (by simp [Config.sdramStore, Config.frameBufferStore]; omega) lane
    have rest := ih (off + 1) (lane + 1) fun c hc' => h c (List.mem_cons_of_mem _ hc')
    exact congr (congrArg List.cons first) rest

/-! ### SDRAM on the default map -/

/-- The addresses below 2^29 have their upper three bits 0 (R73). -/
theorem aliasBits_direct {ea : Word} (h : ea.toNat < 2 ^ 29) : aliasBits ea = 0b000#3 := by
  apply BitVec.eq_of_toNat_eq
  simp [aliasBits, Nat.shiftRight_eq_div_pow]; omega

/-- SDRAM on the default map, by its own addresses (R74, R76). -/
theorem decodeAddress_sdram {p : Params} (map : p.layout = Config.defaultLayout) {ea : Word}
    (lo : 0x6000000 ≤ ea.toNat) (hi : ea.toNat < 0x6040000) (ag : Agent) (sz : Size) (kind : AccessKind) :
    decodeAddress p ag ea sz kind = .region .sdram (ea.toNat - 0x6000000) := by
  have chip : inOnChipBlock p ea = false := by simp [inOnChipBlock, map, Config.defaultLayout]; omega
  have direct : aliasBits ea = 0b000#3 := aliasBits_direct (by omega)
  have address : regionAddress p ea = ea.toNat := by
    rw [regionAddress, map]; exact Nat.mod_eq_of_lt (by simp [Config.defaultLayout]; omega)
  have row : regionRow p ea = some ⟨.sdram, 0x6000000, 0x40000, anySize, anySize⟩ := by
    have boot : bootRomSize p ≤ 2048 := by
      rw [bootRomSize, map]; cases p.coreId <;> decide
    have outside : ∀ row ∈ (regionTable p).take 7, row.holds ea.toNat = false := by
      simp [regionTable, map, Config.defaultLayout, windowRow, RegionRow.holds]
      omega
    have table : regionTable p = (regionTable p).take 7 ++ [⟨.sdram, 0x6000000, 0x40000, anySize, anySize⟩] := by
      simp [regionTable, map, Config.defaultLayout]
    rw [regionRow, address, table, List.find?_append, List.find?_eq_none.mpr (by simpa using outside)]
    simp [RegionRow.holds]; omega
  have size : sz ∈ anySize := by cases sz <;> decide
  simp [decodeAddress, chip, decodeRegion, direct, row, address, size]

/-- A longword write of the core to SDRAM: its four bytes at their places (R60, R76). -/
theorem memWrite_sdram {s : State} (map : AtDefaultMap s) {ea : Word} (al : ea.toNat % 4 = 0)
    (lo : 0x6000000 ≤ ea.toNat) (hi : ea.toNat < 0x6040000) (v : Word) :
    memWrite .core .long ea v s =
      .ok (s.storeCells false (cellsAt (Config.sdramStore + (ea.toNat - 0x6000000)) (beBytes .long v))) := by
  have through : aroundCache .core ea = false := by
    have direct : aliasBits ea = 0b000#3 := aliasBits_direct (by omega)
    simp [aroundCache, direct]
  simp only [memWrite, aligned, Size.bytes, al, decodeAddress_sdram map lo hi, through]
  rfl

/-- A longword read of the core from SDRAM returns the value whose bytes the core wrote there last. -/
theorem memRead_sdram_coreWroteAll {s : State} (map : AtDefaultMap s) {ea v : Word} (al : ea.toNat % 4 = 0)
    (lo : 0x6000000 ≤ ea.toNat) (hi : ea.toNat < 0x6040000)
    (h : s.CoreWroteAll (Config.sdramStore + (ea.toNat - 0x6000000)) (beBytes .long v)) :
    ∃ u, memRead .core .long ea s = .ok (v, u) := by
  have stale : seesEarlier s.params .core ea = true → s.params.cacheModel = .staleDraw := by
    simp +contextual [seesEarlier]
  have bytes := State.regionBytes_coreWroteAll stale (beBytes .long v) _ 0 h
  have value : s.regionValue (seesEarlier s.params .core ea) .sdram .long (ea.toNat - 0x6000000) = v := by
    rw [beBytes_length] at bytes
    simp only [State.regionValue, bytes, beValue_beBytes]
    rfl
  simp only [memRead, memReadVia, aligned, Size.bytes, al, decodeAddress_sdram map lo hi, value]
  exact ⟨_, rfl⟩

/-- After a longword write of the core to SDRAM its bytes are those the core wrote last. -/
theorem memWrite_sdram_coreWroteAll {s t : State} (map : AtDefaultMap s) (hwf : CanonicalMemory s) {ea v : Word}
    (al : ea.toNat % 4 = 0) (lo : 0x6000000 ≤ ea.toNat) (hi : ea.toNat < 0x6040000)
    (hw : memWrite .core .long ea v s = .ok t) :
    t.CoreWroteAll (Config.sdramStore + (ea.toNat - 0x6000000)) (beBytes .long v) := by
  rw [memWrite_sdram map al lo hi] at hw
  cases hw
  exact State.coreWroteAll_storeCells hwf _ _

/-- A longword write of the core to SDRAM leaves a longword above it as the core wrote it. -/
theorem State.CoreWroteAll.memWrite_sdram_below {s t : State} {a : Nat} {bs : List Byte} (h : s.CoreWroteAll a bs)
    (map : AtDefaultMap s) {ea v : Word} (al : ea.toNat % 4 = 0) (lo : 0x6000000 ≤ ea.toNat) (hi : ea.toNat < 0x6040000)
    (below : Config.sdramStore + (ea.toNat - 0x6000000) + 4 ≤ a)
    (hw : memWrite .core .long ea v s = .ok t) : t.CoreWroteAll a bs := by
  rw [memWrite_sdram map al lo hi] at hw
  cases hw
  intro c hc
  have place := List.mem_map_of_mem (f := (·.1)) hc
  rw [cellsAt_addresses, List.mem_range'_1] at place
  refine (h c hc).storeCells false ?_
  rw [cellsAt_addresses, beBytes_length, List.mem_range'_1, Size.bytes]
  omega

/-- The frame of an entry on a stack in SDRAM holds `SR` as it was, where no other agent moves inside (R404). -/
theorem enter_frame_holds_sr {s t : State} {vector : Nat} {savedPc : Word} {newImask : Option (BitVec 4)}
    (map : AtDefaultMap s) (hwf : CanonicalMemory s) (quiet : s.inside = []) (al : (s.reg 15).toNat % 4 = 0)
    (lo : 0x6000008 ≤ (s.reg 15).toNat) (hi : (s.reg 15).toNat ≤ 0x6040000)
    (h : enter vector savedPc newImask s = .next t) : ∃ u, memRead .core .long (t.reg 15 + 4) t = .ok (s.sr, u) := by
  have sp : t.reg 15 + 4 = s.reg 15 - 4 := by
    rw [(enter_sameCpu h).reg 15]
    show (s.setReg 15 (s.reg 15 - 8)).reg 15 + 4 = _
    rw [State.reg_setReg_self]; bv_omega
  obtain ⟨s1, s3, handler, s5, hw1, hw2, hr, rfl⟩ := enter_next_quiet quiet h
  have first : (s.reg 15 - 4).toNat = (s.reg 15).toNat - 4 := by bv_omega
  have second : (s.reg 15 - 8).toNat = (s.reg 15).toNat - 8 := by bv_omega
  have map1 : AtDefaultMap s1 := (congrArg Params.layout (memWrite_sameCpu hw1).params).trans map
  have map3 : AtDefaultMap s3 := (congrArg Params.layout (memWrite_sameCpu hw2).params).trans map1
  have saved := memWrite_sdram_coreWroteAll (s := s.setReg 15 _) map hwf (by omega) (by omega) (by omega) hw1
  have kept := State.CoreWroteAll.memWrite_sdram_below (s := s1.setReg 15 _) saved map1 (by omega) (by omega) (by omega)
    (by omega) hw2
  rw [sp, memRead_frame hr, State.withMask_frame]
  exact memRead_sdram_coreWroteAll (s := { s3 with pc := handler, sr := _, draws := _ }) map3 (by omega) (by omega)
    (by omega) kept

/-! ### The statement -/

theorem maskedSr_reset : MaskedSr State.reset := by
  show State.reset.sr &&& ~~~srMask = 0
  decide

/-- A masked `SR` is its own masked value (R29). -/
theorem MaskedSr.and_eq {s : State} (h : MaskedSr s) : s.sr &&& 0x3F3 = s.sr := by
  calc s.sr &&& 0x3F3 = (s.sr &&& srMask) ||| (s.sr &&& ~~~srMask) := by rw [h]; exact BitVec.or_zero.symm
    _ = s.sr := by rw [← BitVec.and_or_distrib_left, BitVec.or_not_self, BitVec.and_allOnes]

/-- Settles O57: the induction over the steps, and for each write and read of `SR` what its instruction does. -/
theorem statusRegisterStaysMasked : Obligations.StatusRegisterStaysMasked := by
  refine ⟨maskedSr_reset, fun s t h => step_keeps closedNode_maskedSr h t, ?ldc, ?ldcL, ?rte, ?stc, ?stcL, ?enter, ?frame⟩
  case ldc =>
    intro s t m h
    cases h
    rfl
  case ldcL =>
    intro s t s1 m v hr h
    cases (loadThen_ok hr _).symm.trans h
    rfl
  case rte =>
    intro s t s1 s2 s3 target v h1 hi h2 h
    obtain ⟨target', s1', s2', v', s3', h1', hi', h2', rfl⟩ := returnFromException_next (outsideSlot_next h).2
    cases h1.symm.trans h1'
    rw [(memRead_sameCpu h1).reg] at hi'
    cases hi.symm.trans hi'
    rw [(interpose_sameCpu hi).reg, State.reg_setReg_self] at h2'
    cases h2.symm.trans h2'
    rfl
  case stc =>
    intro s t n hs h
    cases h
    show (s.setReg n s.sr).reg n &&& ~~~srMask = 0
    rw [State.reg_setReg_self]
    exact hs
  case stcL =>
    intro s n hs
    rw [hs.and_eq]
    exact storesStepping_of_storeDec rfl
  case enter =>
    intro s vector savedPc newImask hs
    rw [hs.and_eq]
    exact enter_entersHandler vector savedPc newImask s
  case frame =>
    intro s t vector savedPc newImask hs map hwf quiet al lo hi h
    rw [hs.and_eq]
    exact enter_frame_holds_sr map hwf quiet al lo hi h

end Sys2Proof.Machine
end

section
/-! PROOFS. O56 and O58: the invariant every step keeps. Each conjunct is kept on its own: `SR` masked (O57), the stores and the
controllers' registers by the induction over every step, the delay slot by the shape of the core's step. -/

namespace Sys2Proof.Machine

/-! ### Reserved bits by name -/

/-- A flag that is 0 stays 0 where a write can only clear it. -/
theorem clearOnly_of_clear {w : Nat} {old : BitVec w} {i : Nat} (h : old.getLsbD i = false) (written : BitVec w) :
    clearOnly old written i = written &&& ~~~BitVec.twoPow w i := by
  rw [clearOnly, h]; rfl

/-- The INTC's reserved bits, and the DIVU's pending bit (R450, R477): `Intc.form` by name. -/
structure Intc.Formed (i : Intc) : Prop where
  ipra : i.ipra &&& 0x000F = 0
  iprb : i.iprb &&& 0x00FF = 0
  vcra : i.vcra &&& 0x8080 = 0
  vcrb : i.vcrb &&& 0x8080 = 0
  vcrc : i.vcrc &&& 0x8080 = 0
  vcrd : i.vcrd &&& 0x8080 = 0
  vcrwdt : i.vcrwdt &&& 0x8080 = 0
  icr : i.icr &&& 0xFEFE = 0
  divu : i.pending.divu = false

theorem Intc.form_iff (i : Intc) : i.form = true ↔ i.Formed := by
  simp only [Intc.form, Bool.and_eq_true, beq_iff_eq, Bool.not_eq_true', and_assoc]
  exact ⟨fun ⟨a, b, c, d, e, f, g, j, k⟩ => ⟨a, b, c, d, e, f, g, j, k⟩,
    fun ⟨a, b, c, d, e, f, g, j, k⟩ => ⟨a, b, c, d, e, f, g, j, k⟩⟩

/-- A channel's reserved bits (R457 to R460): `DmaChannel.form` by name. -/
structure DmaChannel.Formed (p : Params) (d : DmaChannel) : Prop where
  tcr : d.tcr &&& ~~~tcrMask p = 0
  chcr : d.chcr &&& 0xFFFF0000 = 0
  vcrdma : d.vcrdma &&& 0xFFFFFF00 = 0
  drcr : d.drcr &&& 0xFC = 0

theorem DmaChannel.form_iff (p : Params) (d : DmaChannel) : d.form p = true ↔ d.Formed p := by
  simp only [DmaChannel.form, Bool.and_eq_true, beq_iff_eq, and_assoc]
  exact ⟨fun ⟨a, b, c, d⟩ => ⟨a, b, c, d⟩, fun ⟨a, b, c, d⟩ => ⟨a, b, c, d⟩⟩

/-! ### The controllers' forms under a change of one controller -/

theorem ControllerForm.intc {s : State} (h : ControllerForm s) : s.intc.Formed := (Intc.form_iff _).mp h.1

theorem ControllerForm.chan {s : State} (h : ControllerForm s) (c : Channel) : (s.chan c).Formed s.params := by
  obtain ⟨-, h0, h1, -⟩ := h
  cases c with
  | ch0 => exact (DmaChannel.form_iff _ _).mp h0
  | ch1 => exact (DmaChannel.form_iff _ _).mp h1

theorem ControllerForm.dmaor {s : State} (h : ControllerForm s) : s.dmaor &&& ~~~(0x9 : Word) = 0 := by
  obtain ⟨-, -, -, h, -⟩ := h
  exact h

theorem ControllerForm.dvcr {s : State} (h : ControllerForm s) : s.divu.dvcr &&& ~~~(0x3 : Word) = 0 := by
  obtain ⟨-, -, -, -, h, -⟩ := h
  exact h

theorem ControllerForm.vcrdiv {s : State} (h : ControllerForm s) : s.divu.vcrdiv &&& 0xFFFF0000 = 0 := by
  obtain ⟨-, -, -, -, -, h, -⟩ := h
  exact h

theorem ControllerForm.wtcsr {s : State} (h : ControllerForm s) : s.wdt.wtcsr &&& 0x18 = 0x18 := by
  obtain ⟨-, -, -, -, -, -, h, -⟩ := h
  exact h

theorem ControllerForm.rstcsr {s : State} (h : ControllerForm s) : s.wdt.rstcsr &&& 0x1F = 0x1F := by
  obtain ⟨-, -, -, -, -, -, -, h⟩ := h
  exact h

/-- A new state of the INTC of the right form; of the other controllers in the lemmas after it. -/
theorem ControllerForm.setIntc {s : State} (h : ControllerForm s) {i : Intc} (hi : i.Formed) :
    ControllerForm { s with intc := i } := ⟨(Intc.form_iff i).mpr hi, h.2⟩

theorem ControllerForm.setChan {s : State} (h : ControllerForm s) {c : Channel} {d : DmaChannel}
    (hd : d.Formed s.params) : ControllerForm (s.setChan c d) := by
  have hd' := (DmaChannel.form_iff _ _).mpr hd
  obtain ⟨hi, h0, h1, rest⟩ := h
  cases c with
  | ch0 => exact ⟨hi, hd', h1, rest⟩
  | ch1 => exact ⟨hi, h0, hd', rest⟩

theorem ControllerForm.setDmaor {s : State} (h : ControllerForm s) {v : Word} (hv : v &&& ~~~(0x9 : Word) = 0) :
    ControllerForm { s with dmaor := v } := by
  obtain ⟨hi, h0, h1, -, rest⟩ := h
  exact ⟨hi, h0, h1, hv, rest⟩

theorem ControllerForm.setDivu {s : State} (h : ControllerForm s) {d : Divu} (hc : d.dvcr &&& ~~~(0x3 : Word) = 0)
    (hv : d.vcrdiv &&& 0xFFFF0000 = 0) : ControllerForm { s with divu := d } := by
  obtain ⟨hi, h0, h1, ho, -, -, hw⟩ := h
  exact ⟨hi, h0, h1, ho, hc, hv, hw⟩

theorem ControllerForm.setWdt {s : State} (h : ControllerForm s) {w : Wdt} (hc : w.wtcsr &&& 0x18 = 0x18)
    (hr : w.rstcsr &&& 0x1F = 0x1F) : ControllerForm { s with wdt := w } := by
  obtain ⟨hi, h0, h1, ho, hdc, hdv, -, -⟩ := h
  exact ⟨hi, h0, h1, ho, hdc, hdv, hc, hr⟩

/-- The DIVU's pending bit changes with its own source only (R477). -/
theorem Pending.put_divu {p : Pending} {src : Source} {b : Bool} (h : src = .divu → b = false) (hp : p.divu = false) :
    (p.put src b).divu = false := by
  cases src with
  | divu => exact h rfl
  | board x => cases x <;> exact hp
  | dmac c => cases c <;> exact hp
  | wdt => exact hp

theorem ControllerForm.setPending {s : State} (h : ControllerForm s) {src : Source} {b : Bool}
    (hb : src = .divu → b = false) : ControllerForm (s.setPending src b) :=
  h.setIntc { h.intc with divu := Pending.put_divu hb h.intc.divu }

/-! ### The controllers' forms under a write -/

/-- A division sets at most the overflow flag of the unit's control register (R476, R477). -/
theorem ControllerForm.divide {s : State} (h : ControllerForm s) (a b : Int) : ControllerForm (s.divide a b) := by
  unfold State.divide State.divOverflow
  split
  · exact h.setDivu ((withBit_and (by decide) _ _).trans h.dvcr) h.vcrdiv
  · exact h.setDivu h.dvcr h.vcrdiv

/-- `NMIF` and `AE` stay 0, whatever is written to `DMAOR` (R460). -/
theorem dmaor_written {old : Word} (h : old &&& ~~~(0x9 : Word) = 0) (v : Word) :
    clearOnly old (clearOnly old (v &&& 0xF) 1) 2 &&& ~~~(0x9 : Word) = 0 := by
  rw [clearOnly_of_clear (getLsbD_of_and_eq_zero h (by decide)), clearOnly_of_clear (getLsbD_of_and_eq_zero h (by decide)),
    BitVec.and_assoc v, BitVec.and_assoc v]
  exact and_and_eq_zero (by decide) v

/-- A write of a register stores its reserved bits as 0 (R439, R450, R456 to R460, R477). -/
theorem ControllerForm.writeRegister {s : State} (h : ControllerForm s) (r : OnChipReg) (v : Word) :
    ControllerForm (s.writeRegister r v) := by
  have hi := h.intc
  cases r with
  | iprb => exact h.setIntc { hi with iprb := and_and_eq_zero (by decide) _ }
  | vcra => exact h.setIntc { hi with vcra := and_and_eq_zero (by decide) _ }
  | vcrb => exact h.setIntc { hi with vcrb := and_and_eq_zero (by decide) _ }
  | vcrc => exact h.setIntc { hi with vcrc := and_and_eq_zero (by decide) _ }
  | vcrd => exact h.setIntc { hi with vcrd := and_and_eq_zero (by decide) _ }
  | icr => exact h.setIntc { hi with icr := and_and_eq_zero (by decide) _ }
  | ipra => exact h.setIntc { hi with ipra := and_and_eq_zero (by decide) _ }
  | vcrwdt => exact h.setIntc { hi with vcrwdt := and_and_eq_zero (by decide) _ }
  | drcr c => exact h.setChan { h.chan c with drcr := and_and_eq_zero (by decide) _ }
  | sar c => exact h.setChan { h.chan c with }
  | dar c => exact h.setChan { h.chan c with }
  | tcr c => exact h.setChan { h.chan c with tcr := and_and_eq_zero (BitVec.and_not_self _) _ }
  | chcr c => exact h.setChan { h.chan c with chcr := (withBit_and (by decide) _ _).trans (and_and_eq_zero (by decide) _) }
  | vcrdma c => exact h.setChan { h.chan c with vcrdma := and_and_eq_zero (by decide) _ }
  | dmaor => exact h.setDmaor (dmaor_written h.dmaor v)
  | dvdnt => exact h.divide _ _
  | dvdntl => exact h.divide _ _
  | dvcr => exact h.setDivu ((withBit_and (by decide) _ _).trans (and_and_eq_zero (by decide) _)) h.vcrdiv
  | vcrdiv => exact h.setDivu h.dvcr (and_and_eq_zero (by decide) _)
  | dvsr => exact h
  | dvdnth => exact h
  | dvdntuh => exact h
  | dvdntul => exact h
  | wtcsr => exact h
  | wtcnt => exact h
  | rstcsr => exact h
  | sbycr => exact h
  | ccr => exact h

/-- The fixed ones of the timer's registers, whatever is written to its ports (R483, R487). -/
theorem Wdt.writePort_fixed {w : Wdt} (hc : w.wtcsr &&& 0x18 = 0x18) (hr : w.rstcsr &&& 0x1F = 0x1F) (off : Nat) (sz : Size)
    (v : Word) : (w.writePort off sz v).wtcsr &&& 0x18 = 0x18 ∧ (w.writePort off sz v).rstcsr &&& 0x1F = 0x1F := by
  have control : ∀ b, withBit (b ||| 0x18) 7 (w.wtcsr.getLsbD 7 && b.getLsbD 7) &&& 0x18 = 0x18 := fun b =>
    (withBit_and (mask := (0x18 : Byte)) (by decide) _ _).trans (or_and_eq_self b 0x18)
  unfold Wdt.writePort
  split
  · unfold Wdt.writeCounterPort Wdt.writeControl
    split
    · split
      · exact ⟨control _, hr⟩
      · exact ⟨control _, hr⟩
    · split
      · exact ⟨hc, hr⟩
      · exact ⟨hc, hr⟩
  · split
    · unfold Wdt.writeResetPort
      split
      · exact ⟨hc, (withBit_and (by decide) _ _).trans hr⟩
      · split
        · exact ⟨hc, or_and_eq_self _ 0x1F⟩
        · exact ⟨hc, hr⟩
    · exact ⟨hc, hr⟩

theorem ControllerForm.systemWrite {s : State} (h : ControllerForm s) (ag : Agent) (f : Bool) (sz : Size) (off : Nat)
    (v : Word) : ControllerForm (s.systemWrite ag f sz off v) := by
  unfold State.systemWrite
  split
  · rw [State.keepEarlier_frame]
    exact h.setIntc { h.intc with }
  · split
    · split
      · exact h.setPending (nomatch ·)
      · exact h
    · exact h

/-- A write of any agent keeps the controllers' forms. -/
theorem ControllerForm.memWrite {ag : Agent} {sz : Size} {a v : Word} {s t : State} (h : ControllerForm s)
    (hw : memWrite ag sz a v s = .ok t) : ControllerForm t := by
  obtain ⟨-, rfl | ⟨-, rfl⟩ | ⟨off, -, -, rfl⟩ | ⟨off, r, -, -, rfl⟩ | ⟨off, -, -, rfl⟩ | ⟨off, -, rfl⟩ |
    ⟨r, off, -, -, rfl⟩⟩ := memWrite_cases hw
  · exact h
  · rw [State.purgeWrite_frame]; exact h
  · obtain ⟨control, reset⟩ := Wdt.writePort_fixed h.wtcsr h.rstcsr off sz v
    exact h.setWdt control reset
  · exact h.writeRegister r v
  · exact h
  · exact h.systemWrite _ _ _ _ _
  · rw [State.storeCells_eq]; exact h

/-! ### The controllers' forms under the moves of the other agents -/

/-- A channel's registers after a unit keep their reserved bits (R463). -/
theorem DmaChannel.Formed.stepped {p : Params} {d : DmaChannel} (h : d.Formed p) (ds dd : Word) :
    (d.stepped p ds dd).Formed p := { h with tcr := and_and_eq_zero (BitVec.and_not_self _) _ }

theorem ControllerForm.dmaComplete {s : State} (h : ControllerForm s) (c : Channel) : ControllerForm (s.dmaComplete c) := by
  have flagged : ControllerForm (s.setChan c { s.chan c with chcr := withBit (s.chan c).chcr 1 true }) :=
    h.setChan { h.chan c with chcr := (withBit_and (by decide) _ _).trans (h.chan c).chcr }
  unfold State.dmaComplete
  simp only []
  split
  · exact flagged.setPending (nomatch ·)
  · exact flagged

theorem ControllerForm.dmaUnit {c : Channel} {s t : State} (h : ControllerForm s) (hu : dmaUnit c s = .ok t) :
    ControllerForm t := by
  obtain ⟨ds, dd, v, s1, s2, -, -, hr, hw, rfl⟩ := dmaUnit_ok hu
  have h1 : ControllerForm s1 := by rw [memRead_frame hr]; exact h
  have h2 := h1.memWrite hw
  have h3 := h2.setChan (c := c) ((h2.chan c).stepped ds dd)
  split
  · exact h3.dmaComplete c
  · exact h3

/-- An overflow sets flags and may raise the timer's interrupt (R485 to R487). -/
theorem ControllerForm.wdtOverflow {s t : State} (h : ControllerForm s) (ht : s.wdtOverflow = .next t) :
    ControllerForm t := by
  rw [State.wdtOverflow_eq] at ht
  split at ht
  · cases ht
  · cases ht
    have control : s.overflowed.wdt.wtcsr &&& 0x18 = 0x18 :=
      (or_and_of_apart (bits := (0x80 : Byte)) (by decide) s.wdt.wtcsr).trans h.wtcsr
    have reset : s.overflowed.wdt.rstcsr &&& 0x1F = 0x1F := by
      unfold State.overflowed
      simp only []
      split
      · exact (or_and_of_apart (bits := (0x80 : Byte)) (by decide) _).trans h.rstcsr
      · exact h.rstcsr
    have timer : ControllerForm { s with wdt := s.overflowed.wdt } := h.setWdt control reset
    exact timer.setIntc { h.intc with }

theorem closedMoves_controllerForm : ClosedMoves ControllerForm where
  dma _ _ _ h hu := h.dmaUnit hu
  wdt _ n h := wdtStep_keeps (fun _ _ h => h) (fun _ _ h => h) (fun _ h _ ht => h.wdtOverflow ht) h n
  raise _ _ h := h.setPending (nomatch ·)
  trigger _ c _ h := h.setChan { h.chan c with }
  swap _ h := h
  frame s off v h := by
    unfold State.hostFrameWrite
    split
    · rw [State.storeCells_eq]; exact h
    · exact h
  other s sz a v h := by
    rcases s.otherNodeWrite_cases sz a v with e | ⟨_, _, -, e⟩
    · rw [e]; exact h
    · rw [e, State.storeCells_eq]; exact h

/-! ### The stores and the controllers over every step -/

/-- Two properties kept by every move are kept together. -/
theorem ClosedMoves.and {P Q : State → Prop} (p : ClosedMoves P) (q : ClosedMoves Q) : ClosedMoves fun s => P s ∧ Q s where
  dma c s t h hu := ⟨p.dma c s t h.1 hu, q.dma c s t h.2 hu⟩
  wdt s n h t ht := ⟨p.wdt s n h.1 t ht, q.wdt s n h.2 t ht⟩
  raise s b h := ⟨p.raise s b h.1, q.raise s b h.2⟩
  trigger s c v h := ⟨p.trigger s c v h.1, q.trigger s c v h.2⟩
  swap s h := ⟨p.swap s h.1, q.swap s h.2⟩
  frame s off v h := ⟨p.frame s off v h.1, q.frame s off v h.2⟩
  other s sz a v h := ⟨p.other s sz a v h.1, q.other s sz a v h.2⟩

/-- An accepted source clears itself or stays (R448). -/
theorem ControllerForm.acceptSource {s : State} (h : ControllerForm s) (src : Source) :
    ControllerForm (s.acceptSource src) := by
  cases src with
  | board _ => exact h
  | divu => exact h.setPending fun _ => rfl
  | dmac _ => exact h.setPending fun _ => rfl
  | wdt => exact h.setPending fun _ => rfl

theorem DmaChannel.formed_reset (p : Params) : DmaChannel.reset.Formed p :=
  ⟨BitVec.zero_and, by decide, by decide, by decide⟩

/-- The controllers have their forms after a reset, whatever the parameters (R502). -/
theorem controllerForm_reset (p : Params) : ControllerForm { State.reset with params := p } := by
  have channel := (DmaChannel.form_iff p _).mpr (DmaChannel.formed_reset p)
  have timer : State.reset.wdt.wtcsr &&& 0x18 = 0x18 ∧ State.reset.wdt.rstcsr &&& 0x1F = 0x1F := by decide
  have intc : State.reset.intc.form = true := by decide
  exact ⟨intc, channel, channel, BitVec.zero_and, BitVec.zero_and, BitVec.zero_and, timer⟩

theorem State.dmaComplete_mem (s : State) (c : Channel) : (s.dmaComplete c).mem = s.mem := by
  unfold State.dmaComplete
  simp only []
  split
  · rw [State.setPending_mem, State.setChan_mem]
  · rw [State.setChan_mem]

theorem closedMoves_canonicalMemory : ClosedMoves CanonicalMemory where
  dma c s t h hu := by
    obtain ⟨ds, dd, v, s1, s2, -, -, hr, hw, rfl⟩ := dmaUnit_ok hu
    have h3 : CanonicalMemory (s2.setChan c ((s2.chan c).stepped s2.params ds dd)) := by
      rw [CanonicalMemory, State.setChan_mem]; exact memWrite_wf (memRead_wf h hr) hw
    split
    · rw [CanonicalMemory, State.dmaComplete_mem]; exact h3
    · exact h3
  wdt _ n h := wdtStep_keeps (P := CanonicalMemory) (fun _ _ h => h) (fun _ _ h => h)
    (fun s h t ht => by rw [State.wdtOverflow_frame ht]; exact h) h n
  raise _ _ h := h
  trigger s c v h := by rw [CanonicalMemory, State.setChan_mem]; exact h
  swap _ h := Memory.wf_filter _ h
  frame s off v h := by
    unfold State.hostFrameWrite
    split
    · rw [CanonicalMemory, State.storeCells_eq]; exact State.wf_writeCells h _
    · exact h
  other s sz a v h := by
    rcases s.otherNodeWrite_cases sz a v with e | ⟨_, _, -, e⟩
    · rw [e]; exact h
    · rw [e, CanonicalMemory, State.storeCells_eq]; exact State.wf_writeCells h _

/-- A reset that succeeds leaves the stores and the controllers as cleared (R501, R502). -/
theorem systemReset_node {s t : State} (h : systemReset s = .ok t) :
    t = { s.clearForReset with pc := t.pc, regs := t.regs, draws := t.draws } := by
  obtain ⟨pc, sp, s1, s2, h1, h2, rfl⟩ := systemReset_ok h
  rw [memRead_frame h2, memRead_frame h1]
  rfl

/-- The stores are canonical and the controllers' registers as they read (R450, R457 to R460, R477, R483, R487). -/
def NodeForm (s : State) : Prop := CanonicalMemory s ∧ ControllerForm s

theorem NodeForm.reset {s t : State} (h : NodeForm s) (ht : systemReset s = .ok t) : NodeForm t := by
  rw [systemReset_node ht]
  exact ⟨Memory.wf_filter _ h.1, controllerForm_reset s.params⟩

theorem closedNode_nodeForm : ClosedNode NodeForm where
  core := {
    setReg := fun _ _ _ h => h
    setFlow := fun _ _ _ h => h
    setSr := fun _ _ h => h
    setT := fun _ _ h => h
    setQ := fun _ _ h => h
    setM := fun _ _ h => h
    setImask := fun _ _ h => h
    setMach := fun _ _ h => h
    setMacl := fun _ _ h => h
    setBoth := fun _ _ _ h => h
    setGbr := fun _ _ h => h
    setVbr := fun _ _ h => h
    setPr := fun _ _ h => h
    setRun := fun _ _ h => h
    setDraws := fun _ _ h => h
    acceptSource := fun s src h => ⟨by cases src <;> exact h.1, h.2.acceptSource src⟩
    write := fun h hw => ⟨memWrite_wf h.1 hw, h.2.memWrite hw⟩
    moves := closedMoves_canonicalMemory.and closedMoves_controllerForm
    inside := fun _ _ h => h }
  schedule := fun _ _ h => h
  reset := fun _ _ h ht => h.reset ht

/-! ### The delay slot -/

/-- What keeps the core's registers keeps it outside a slot. -/
theorem SameCpu.outsideSlot {s t : State} (h : SameCpu s t) (hs : OutsideSlot s) : OutsideSlot t := h.delaySlot.trans hs

theorem commitBranch_outsideSlot (s : State) : OutsideSlot s.commitBranch := by
  unfold State.commitBranch
  split
  · assumption
  · rfl

theorem runSlot_outsideSlot (s : State) : Keeps OutsideSlot (runSlot s) := by
  intro t h
  obtain ⟨s', -, h⟩ := andThen_next h
  cases h
  exact commitBranch_outsideSlot s'

/-- A step of a running core ends outside a slot: a latched branch is committed in the step that latched it (R45, R291). -/
theorem runStep_outsideSlot (s : State) : Keeps OutsideSlot (runStep s) := by
  intro t h
  unfold runStep at h
  split at h
  · exact runSlot_outsideSlot s t h
  · obtain ⟨s', -, h⟩ := andThen_next h
    unfold finishBranch at h
    split at h
    · cases h; assumption
    · obtain ⟨s'', -, h⟩ := andThen_next h
      exact runSlot_outsideSlot s'' t h

theorem coreMove_outsideSlot {s : State} (hs : OutsideSlot s) : Keeps OutsideSlot (coreMove s) := by
  intro t h
  unfold coreMove at h
  split at h
  · cases h; exact hs
  · obtain ⟨s', h', hi⟩ := andThen_next h
    exact (interpose_sameCpu hi).outsideSlot (runStep_outsideSlot s s' h')

theorem sample_outsideSlot {s : State} (hs : OutsideSlot s) : Keeps OutsideSlot (sample s) := by
  intro t h
  rcases sample_cases s with e | ⟨-, src, s', hc, e⟩
  · rw [e] at h; cases h; exact hs
  · rw [e] at h
    obtain ⟨s'', hi, he⟩ := acceptInterrupt_next h
    have chosen : OutsideSlot s' := by rw [(chooseSource_mem hc).2]; exact hs
    have accepted : OutsideSlot (s'.acceptSource src) := (s'.acceptSource_sameCpu src).outsideSlot chosen
    have moved := (interpose_sameCpu hi).outsideSlot accepted
    exact (enter_sameCpu he).outsideSlot moved

theorem agentMove_outsideSlot (e : Event) {s : State} (hs : OutsideSlot s) : Keeps OutsideSlot (agentMove e s) := by
  cases e with
  | core => exact keeps_andThen (coreMove_outsideSlot hs) (fun _ => sample_outsideSlot)
  | move m =>
    refine keeps_andThen (moveStep_keeps (closedMoves_of_elsewhere fun _ _ h => h.sameCpu.outsideSlot) m hs) (fun s h => ?_)
    unfold sampleAsleep
    split
    · exact sample_outsideSlot h
    · exact keeps_next h
  | hostReset => exact keeps_ofExcept (fun t ht => (systemReset_sameCpu ht).outsideSlot rfl)
  | boundary => exact sample_outsideSlot hs

theorem step_outsideSlot {s : State} (hs : OutsideSlot s) : Keeps OutsideSlot (step s) := by
  unfold step nodeMove
  split
  · exact agentMove_outsideSlot _ hs
  · exact agentMove_outsideSlot _ hs

/-! ### The statements -/

/-- Settles O58: each conjunct by its own induction over the steps. -/
theorem everyStepKeepsTheInvariant : Obligations.EveryStepKeepsTheInvariant := by
  intro s t ⟨sr, mem, slot, form⟩ h
  obtain ⟨mem', form'⟩ := step_keeps closedNode_nodeForm ⟨mem, form⟩ t h
  exact ⟨step_keeps closedNode_maskedSr sr t h, mem', step_outsideSlot slot t h, form'⟩

/-- Settles O56, each conjunct at the reset values. -/
theorem invariantHoldsAtReset : Obligations.InvariantHoldsAtReset :=
  ⟨maskedSr_reset, Memory.wf_reset, rfl, controllerForm_reset Config.defaultParams⟩

end Sys2Proof.Machine
end

section
/-! PROOFS. O6 and O60: what an instruction writes beside the general registers and memory. One walk over the instructions says
for each which special registers it may write and how it ends; both statements are properties that this walk keeps. -/

namespace Sys2Proof.Machine

/-- A property kept by everything the instruction `i` may do before it ends: write general registers, read and write memory, let
other agents move, and write the special registers the rules list it for (R29 to R35, R41, R42, R48). -/
structure ClosedBy (i : Instr) (P : State → Prop) : Prop where
  sameCpu : ∀ {s t}, SameCpu s t → P s → P t
  setReg : ∀ s n v, P s → P (s.setReg n v)
  setT : i.writesT = true → ∀ s b, P s → P (s.setT b)
  setQ : i.writesQ = true → ∀ s b, P s → P (s.setQ b)
  setM : i.writesM = true → ∀ s b, P s → P (s.setM b)
  setSr : i.writesWholeSr = true → ∀ s v, P s → P (s.setSr v)
  setMach : i.writesMach = true → ∀ s v, P s → P { s with mach := v }
  setMacl : i.writesMacl = true → ∀ s v, P s → P { s with macl := v }
  setGbr : i.writesGbr = true → ∀ s v, P s → P { s with gbr := v }
  setVbr : i.writesVbr = true → ∀ s v, P s → P { s with vbr := v }
  setPr : i.writesPr = true → ∀ s v, P s → P { s with pr := v }
  setRun : i = .sleep → ∀ s v, P s → P { s with run := v }

/-- The state after the implicit `pc <- pc + 2` of one with the property (R25). -/
def Advanced (P : State → Prop) (t : State) : Prop := ∃ s, P s ∧ t = s.advance

section Walk

variable {i : Instr} {P Q : State → Prop}

theorem keeps_advanced {s : State} (h : P s) : Keeps (Advanced P) (done s) := keeps_next ⟨s, h, rfl⟩

theorem ClosedBy.load (c : ClosedBy i P) {sz : Size} {ea : Word} {s : State} {k : Word → State → Result} (h : P s)
    (hk : ∀ v s', P s' → Keeps Q (k v s')) : Keeps Q (loadThen sz ea s k) := by
  intro t ht
  obtain ⟨v, s', hr, hk'⟩ := loadThen_next ht
  exact hk v s' (c.sameCpu (memRead_sameCpu hr) h) t hk'

theorem ClosedBy.loadUncached (c : ClosedBy i P) {sz : Size} {ea : Word} {s : State} {k : Word → State → Result} (h : P s)
    (hk : ∀ v s', P s' → Keeps Q (k v s')) : Keeps Q (loadUncachedThen sz ea s k) := by
  intro t ht
  obtain ⟨v, s', hr, hk'⟩ := loadUncachedThen_next ht
  exact hk v s' (c.sameCpu (memReadVia_sameCpu hr) h) t hk'

theorem ClosedBy.store (c : ClosedBy i P) {sz : Size} {ea v : Word} {s : State} {k : State → Result} (h : P s)
    (hk : ∀ s', P s' → Keeps Q (k s')) : Keeps Q (storeThen sz ea v s k) := by
  intro t ht
  obtain ⟨s', hw, hk'⟩ := storeThen_next ht
  exact hk s' (c.sameCpu (memWrite_sameCpu hw) h) t hk'

theorem ClosedBy.interposed (c : ClosedBy i P) {s : State} {k : State → Result} (h : P s)
    (hk : ∀ s', P s' → Keeps Q (k s')) : Keeps Q (andThen (interpose s) k) := by
  intro t ht
  obtain ⟨s', hi, hk'⟩ := andThen_next ht
  exact hk s' (c.sameCpu (interpose_sameCpu hi) h) t hk'

theorem ClosedBy.writeReg (c : ClosedBy i P) {n : Reg} {v : Word} {s : State} (h : P s) :
    Keeps (Advanced P) (writeReg n v s) := keeps_advanced (c.setReg s n v h)

theorem ClosedBy.writeT (c : ClosedBy i P) (w : i.writesT = true) {b : Bool} {s : State} (h : P s) :
    Keeps (Advanced P) (writeT b s) := keeps_advanced (c.setT w s b h)

theorem ClosedBy.writeRegT (c : ClosedBy i P) (w : i.writesT = true) {n : Reg} {r : Word × Bool} {s : State} (h : P s) :
    Keeps (Advanced P) (writeRegT n r s) := keeps_advanced (c.setT w _ _ (c.setReg s n _ h))

theorem ClosedBy.loadReg (c : ClosedBy i P) {sz : Size} {ea : Word} {n : Reg} {s : State} (h : P s) :
    Keeps (Advanced P) (loadReg sz ea n s) := c.load h fun _ _ h' => c.writeReg h'

theorem ClosedBy.loadRegInc (c : ClosedBy i P) {sz : Size} {m n : Reg} {s : State} (h : P s) :
    Keeps (Advanced P) (loadRegInc sz m n s) := by
  refine c.load h fun _ s' h' => ?_
  split
  · exact c.writeReg h'
  · exact c.writeReg (c.setReg s' m _ h')

theorem ClosedBy.storeReg (c : ClosedBy i P) {sz : Size} {ea v : Word} {s : State} (h : P s) :
    Keeps (Advanced P) (Machine.store sz ea v s) := c.store h fun _ h' => keeps_advanced h'

theorem ClosedBy.storeDec (c : ClosedBy i P) {sz : Size} {n : Reg} {v : Word} {s : State} (h : P s) :
    Keeps (Advanced P) (storeDec sz n v s) := c.store h fun _ h' => c.writeReg h'

theorem ClosedBy.popInto (c : ClosedBy i P) {m : Reg} {put : State → Word → State} (hput : ∀ s v, P s → P (put s v))
    {s : State} (h : P s) : Keeps (Advanced P) (popInto m put s) :=
  c.load h fun v s' h' => keeps_advanced (hput _ v (c.setReg s' m _ h'))

theorem ClosedBy.modifyByte (c : ClosedBy i P) {ea : Word} {f : Word → Word} {s : State} (h : P s) :
    Keeps (Advanced P) (modifyByte ea f s) := c.load h fun _ _ h' => c.interposed h' fun _ h'' => c.storeReg h''

theorem ClosedBy.setBoth (c : ClosedBy i P) (wh : i.writesMach = true) (wl : i.writesMacl = true) (s : State) (v w : Word)
    (h : P s) : P { s with mach := v, macl := w } := c.setMacl wl _ w (c.setMach wh s v h)

theorem ClosedBy.setMac (c : ClosedBy i P) (wh : i.writesMach = true) (wl : i.writesMacl = true) (s : State) (v : BitVec 64)
    (h : P s) : P (s.setMac v) := c.setBoth wh wl s _ _ h

theorem ClosedBy.accumulateLong (c : ClosedBy i P) (wh : i.writesMach = true) (wl : i.writesMacl = true) (p : Int) {s : State}
    (h : P s) : P (accumulateLong p s) := by
  unfold Machine.accumulateLong
  split
  · exact c.setMac wh wl s _ h
  · exact c.sameCpu (setDraws_sameCpu _ _) (c.setMac wh wl s _ h)

theorem ClosedBy.macOperands (c : ClosedBy i P) {sz : Size} {m n : Reg} {s : State} {k : Word → Word → State → Result}
    (h : P s) (hk : ∀ a b s', P s' → Keeps Q (k a b s')) : Keeps Q (macOperands sz m n s k) :=
  c.load h fun a s1 h1 => c.interposed (c.setReg s1 n _ h1) fun _ h2 => c.load h2 fun b s3 h3 =>
    hk a b _ (c.setReg s3 m _ h3)

/-- R25: an instruction that does not assign `pc` ends with the implicit `pc <- pc + 2`, after nothing but what it may do. -/
theorem exec_advances (c : ClosedBy i P) (hp : i.writesPc = false) {s : State} (h : P s) :
    Keeps (Advanced P) (exec i s) := by
  cases i
  case movWLoadPc n disp =>
    show Keeps _ (execMovWLoadPc n disp s)
    exact keeps_pcBaseThen fun _ => c.loadReg h
  case movLLoadPc n disp =>
    show Keeps _ (execMovLLoadPc n disp s)
    exact keeps_pcBaseThen fun _ => c.loadReg h
  case mova disp =>
    show Keeps _ (execMova disp s)
    exact keeps_pcBaseThen fun _ => c.writeReg h
  case div1 => exact keeps_advanced (c.setT rfl _ _ (c.setQ rfl _ _ (c.setReg _ _ _ h)))
  case div0s => exact keeps_advanced (c.setT rfl _ _ (c.setM rfl _ _ (c.setQ rfl _ _ h)))
  case div0u => exact keeps_advanced (c.setT rfl _ _ (c.setQ rfl _ _ (c.setM rfl _ _ h)))
  case dmulsL | dmuluL => exact keeps_advanced (c.setMac rfl rfl _ _ h)
  case macL => exact c.macOperands h fun _ _ _ h' => keeps_advanced (c.accumulateLong rfl rfl _ h')
  case macW m n =>
    show Keeps _ (execMacW m n s)
    exact c.macOperands h fun _ _ s' h' => keeps_advanced (c.setBoth rfl rfl s' _ _ h')
  case mulL | mulsW | muluW => exact keeps_advanced (c.setMacl rfl _ _ h)
  case andB | orB | xorB => exact c.modifyByte h
  case tasB => exact c.loadUncached h fun _ _ h' => c.store h' fun _ h'' => c.writeT rfl h''
  case tstB => exact c.load h fun _ _ h' => c.writeT rfl h'
  case sleep =>
    show Keeps _ (execSleep s)
    unfold execSleep
    split
    · exact keeps_refused
    · exact keeps_advanced (c.setRun rfl _ _ h)
  case clrmac => exact keeps_advanced (c.setBoth rfl rfl _ _ _ h)
  case ldcSr => exact keeps_advanced (c.setSr rfl _ _ h)
  case ldcGbr => exact keeps_advanced (c.setGbr rfl _ _ h)
  case ldcVbr => exact keeps_advanced (c.setVbr rfl _ _ h)
  case ldsMach => exact keeps_advanced (c.setMach rfl _ _ h)
  case ldsMacl => exact keeps_advanced (c.setMacl rfl _ _ h)
  case ldsPr => exact keeps_advanced (c.setPr rfl _ _ h)
  case ldcLSr => exact c.popInto (c.setSr rfl) h
  case ldcLGbr => exact c.popInto (c.setGbr rfl) h
  case ldcLVbr => exact c.popInto (c.setVbr rfl) h
  case ldsLMach => exact c.popInto (c.setMach rfl) h
  case ldsLMacl => exact c.popInto (c.setMacl rfl) h
  case ldsLPr => exact c.popInto (c.setPr rfl) h
  case nop => exact keeps_advanced h
  case movImm | movReg | movt | swapB | swapW | xtrct | addReg | addImm | extsB | extsW | extuB | extuW | neg | sub |
      andReg | andImm | notReg | orReg | orImm | xorReg | xorImm | shll2 | shlr2 | shll8 | shlr8 | shll16 | shlr16 |
      stcSr | stcGbr | stcVbr | stsMach | stsMacl | stsPr =>
    exact c.writeReg h
  case cmpEqImm | cmpEq | cmpHs | cmpGe | cmpHi | cmpGt | cmpPl | cmpPz | cmpStr | tstReg | tstImm | clrt | sett =>
    exact c.writeT rfl h
  case addc | addv | dt | negc | subc | subv | rotl | rotr | rotcl | rotcr | shal | shar | shll | shlr =>
    exact c.writeRegT rfl h
  case movBLoad | movWLoad | movLLoad | movBLoadDisp | movWLoadDisp | movLLoadDisp | movBLoadIdx | movWLoadIdx |
      movLLoadIdx | movBLoadGbr | movWLoadGbr | movLLoadGbr =>
    exact c.loadReg h
  case movBLoadInc | movWLoadInc | movLLoadInc =>
    exact c.loadRegInc h
  case movBStore | movWStore | movLStore | movBStoreDisp | movWStoreDisp | movLStoreDisp | movBStoreIdx | movWStoreIdx
      | movLStoreIdx | movBStoreGbr | movWStoreGbr | movLStoreGbr =>
    exact c.storeReg h
  case movBStoreDec | movWStoreDec | movLStoreDec | stcLSr | stcLGbr | stcLVbr | stsLMach | stsLMacl | stsLPr =>
    exact c.storeDec h
  case bf | bfs | bt | bts | bra | braf | bsr | bsrf | jmp | jsr | rts | rte | trapa =>
    exact Bool.noConfusion hp

/-- The branches, `RTE` and `TRAPA`: they end with a new `pc`, a slot opened or not, after nothing but what they may do. -/
theorem exec_writesPc_keeps (c : ClosedBy i P) (flow : ∀ s v slot, P s → P { s with pc := v, delaySlot := slot })
    (hp : i.writesPc = true) {s : State} (h : P s) : Keeps P (exec i s) := by
  have advances : ∀ s, P s → Keeps P (done s) := fun s h => keeps_next (flow s _ s.delaySlot h)
  have jumps : ∀ target s, P s → Keeps P (jump target s) := fun target s h => keeps_next (flow s target s.delaySlot h)
  have delays : ∀ target s, P s → Keeps P (delayedBranch target s) := fun target s h => keeps_next (flow s _ _ h)
  cases i
  case bf | bt => exact keeps_outsideSlot (by split; exact jumps _ s h; exact advances s h)
  case bfs | bts | bra | braf | jmp | rts => exact keeps_outsideSlot (delays _ s h)
  case bsr | bsrf | jsr => exact keeps_outsideSlot (delays _ _ (c.setPr rfl s _ h))
  case rte =>
    show Keeps _ (execRte s)
    refine keeps_outsideSlot (c.load h fun target s1 h1 => c.interposed (c.setReg s1 15 _ h1) fun s2 h2 =>
      c.load h2 fun v s3 h3 => delays target _ ?_)
    exact c.setSr rfl _ v (c.setReg s3 15 _ h3)
  case trapa imm =>
    show Keeps _ (execTrapa imm s)
    exact keeps_outsideSlot fun t ht =>
      c.sameCpu (enter_sameCpu ht) (flow _ t.pc s.delaySlot (c.setReg s 15 _ h))
  all_goals exact Bool.noConfusion hp

end Walk

/-- `pc` and the slot are as they were. -/
def SameFlow (s t : State) : Prop := t.pc = s.pc ∧ t.delaySlot = s.delaySlot

/-- No instruction moves `pc` or the slot before it ends. -/
theorem closedBy_sameFlow (i : Instr) (s : State) : ClosedBy i (SameFlow s) where
  sameCpu c h := ⟨c.pc.trans h.1, c.delaySlot.trans h.2⟩
  setReg _ _ _ h := h
  setT _ _ _ h := h
  setQ _ _ _ h := h
  setM _ _ _ h := h
  setSr _ _ _ h := h
  setMach _ _ _ h := h
  setMacl _ _ _ h := h
  setGbr _ _ _ h := h
  setVbr _ _ _ h := h
  setPr _ _ _ h := h
  setRun _ _ _ h := h

/-- Settles O6: the walk over the instructions, for `pc` and the slot. -/
theorem otherInstructionsAdvancePcByTwo : Obligations.OtherInstructionsAdvancePcByTwo := by
  intro i s t hp h
  obtain ⟨u, ⟨pc, slot⟩, rfl⟩ := exec_advances (closedBy_sameFlow i s) hp ⟨rfl, rfl⟩ t h
  exact ⟨congrArg (· + 2) pc, slot⟩

/-! ### The special registers -/

/-- The bits of `SR` under a write of one flag. -/
theorem extractLsb'_withBit {w : Nat} (v : BitVec w) {i start len : Nat} (b : Bool) (h : i < start ∨ start + len ≤ i) :
    (withBit v i b).extractLsb' start len = v.extractLsb' start len := by
  ext k hk
  have apart : start + k ≠ i := by omega
  simp [withBit_getLsbD, apart]

@[simp] theorem State.setT_q (s : State) (b : Bool) : (s.setT b).q = s.q := withBit_getLsbD _ _ _ _
@[simp] theorem State.setT_m (s : State) (b : Bool) : (s.setT b).m = s.m := withBit_getLsbD _ _ _ _
@[simp] theorem State.setT_sBit (s : State) (b : Bool) : (s.setT b).sBit = s.sBit := withBit_getLsbD _ _ _ _
@[simp] theorem State.setT_imask (s : State) (b : Bool) : (s.setT b).imask = s.imask := extractLsb'_withBit _ b (by decide)
@[simp] theorem State.setQ_t (s : State) (b : Bool) : (s.setQ b).t = s.t := withBit_getLsbD _ _ _ _
@[simp] theorem State.setQ_m (s : State) (b : Bool) : (s.setQ b).m = s.m := withBit_getLsbD _ _ _ _
@[simp] theorem State.setQ_sBit (s : State) (b : Bool) : (s.setQ b).sBit = s.sBit := withBit_getLsbD _ _ _ _
@[simp] theorem State.setQ_imask (s : State) (b : Bool) : (s.setQ b).imask = s.imask := extractLsb'_withBit _ b (by decide)
@[simp] theorem State.setM_t (s : State) (b : Bool) : (s.setM b).t = s.t := withBit_getLsbD _ _ _ _
@[simp] theorem State.setM_q (s : State) (b : Bool) : (s.setM b).q = s.q := withBit_getLsbD _ _ _ _
@[simp] theorem State.setM_sBit (s : State) (b : Bool) : (s.setM b).sBit = s.sBit := withBit_getLsbD _ _ _ _
@[simp] theorem State.setM_imask (s : State) (b : Bool) : (s.setM b).imask = s.imask := extractLsb'_withBit _ b (by decide)

/-- The instructions that write the whole of `SR` are among those that write each flag (R29 to R32). -/
theorem writesFlags_of_writesWholeSr {i : Instr} (h : i.writesWholeSr = true) :
    i.writesT = true ∧ i.writesQ = true ∧ i.writesM = true := by
  cases i
  case ldcSr | ldcLSr | rte => exact ⟨rfl, rfl, rfl⟩
  all_goals exact Bool.noConfusion h

/-- The special registers and the run state are as they were, but for those the instruction is listed for. -/
def SpecialsKept (i : Instr) (s t : State) : Prop :=
  (i.writesT = false → t.t = s.t) ∧ (i.writesQ = false → t.q = s.q) ∧ (i.writesM = false → t.m = s.m) ∧
  (i.writesWholeSr = false → t.sBit = s.sBit ∧ t.imask = s.imask) ∧
  (i.writesGbr = false → t.gbr = s.gbr) ∧ (i.writesVbr = false → t.vbr = s.vbr) ∧
  (i.writesPr = false → t.pr = s.pr) ∧ (i.writesMach = false → t.mach = s.mach) ∧
  (i.writesMacl = false → t.macl = s.macl) ∧ (i ≠ .sleep → t.run = s.run)

/-- Nothing is said of a register the instruction is listed for. -/
theorem of_listed {b : Bool} {p : Prop} (w : b = true) (unlisted : b = false) : p :=
  Bool.noConfusion (w.symm.trans unlisted)

/-- Each thing an instruction may do before it ends keeps the registers it is not listed for. -/
theorem closedBy_specialsKept (i : Instr) (s : State) : ClosedBy i (SpecialsKept i s) where
  sameCpu c h := by
    simpa only [SpecialsKept, State.t, State.q, State.m, State.sBit, State.imask, c.sr, c.gbr, c.vbr, c.pr, c.mach,
      c.macl, c.run] using h
  setReg _ _ _ h := h
  setT w _ _ h := by simpa [SpecialsKept, w] using h
  setQ w _ _ h := by simpa [SpecialsKept, w] using h
  setM w _ _ h := by simpa [SpecialsKept, w] using h
  setSr w _ _ h := by
    obtain ⟨t, q, m⟩ := writesFlags_of_writesWholeSr w
    simpa [SpecialsKept, w, t, q, m] using h
  setMach w _ _ := fun ⟨t, q, m, sr, gbr, vbr, pr, _, macl, run⟩ =>
    ⟨t, q, m, sr, gbr, vbr, pr, of_listed w, macl, run⟩
  setMacl w _ _ := fun ⟨t, q, m, sr, gbr, vbr, pr, mach, _, run⟩ =>
    ⟨t, q, m, sr, gbr, vbr, pr, mach, of_listed w, run⟩
  setGbr w _ _ := fun ⟨t, q, m, sr, _, vbr, pr, mach, macl, run⟩ =>
    ⟨t, q, m, sr, of_listed w, vbr, pr, mach, macl, run⟩
  setVbr w _ _ := fun ⟨t, q, m, sr, gbr, _, pr, mach, macl, run⟩ =>
    ⟨t, q, m, sr, gbr, of_listed w, pr, mach, macl, run⟩
  setPr w _ _ := fun ⟨t, q, m, sr, gbr, vbr, _, mach, macl, run⟩ =>
    ⟨t, q, m, sr, gbr, vbr, of_listed w, mach, macl, run⟩
  setRun w _ _ := fun ⟨t, q, m, sr, gbr, vbr, pr, mach, macl, _⟩ =>
    ⟨t, q, m, sr, gbr, vbr, pr, mach, macl, fun awake => absurd w awake⟩

/-- Settles O60: the walk over the instructions, for the special registers. -/
theorem onlyTheListedInstructionsWriteSpecialRegisters : Obligations.OnlyTheListedInstructionsWriteSpecialRegisters := by
  intro i s t h
  have c := closedBy_specialsKept i s
  have start : SpecialsKept i s s := by simp [SpecialsKept]
  cases hp : i.writesPc with
  | false =>
    obtain ⟨u, kept, rfl⟩ := exec_advances c hp start t h
    exact kept
  | true => exact exec_writesPc_keeps c (fun _ _ _ h => h) hp start t h

end Sys2Proof.Machine
end

section
/-! PROOFS. O4 and O54: the shape of the core's step (10_state R24, 44_branch R291, 60_exceptions R410), and the values that a
reset leaves (70_reset R502). -/

namespace Sys2Proof.Machine

/-- What the core's step does after its first instruction: the slot of a delayed branch, other agents' moves, the sample (R291,
R94, R410). -/
def finishStep (o : Result) : Result := andThen (andThen (andThen o finishBranch) interpose) sample

/-- The step of a running core outside a slot, whose turn it is, is the fetched instruction and what follows it (R24, R410). -/
theorem step_running {s : State} (turn : s.schedule = []) (run : s.run = .running) (slot : s.delaySlot = none) :
    step s = finishStep (runOne s) := by
  simp only [step, nodeMove, turn, agentMove, coreMove, run, runStep, slot]
  rfl

/-- Where the fetch is answered, an instruction is what falls after the fetch, then the opcode (R24, R94). -/
theorem runOne_fetched {s s1 : State} {op : Word} (h : memRead .core .word s.pc s = .ok (op, s1)) :
    runOne s = andThen (interpose s1) (execOpcode (op.setWidth 16)) := loadThen_ok h _

/-- A state outside a slot after the first instruction ends the step (R291). -/
theorem finishStep_next {t : State} (h : t.delaySlot = none) :
    finishStep (.next t) = andThen (interpose t) sample := by
  have branch : finishBranch t = .next t := by rw [finishBranch, h]
  show andThen (andThen (finishBranch t) interpose) sample = _
  rw [branch]; rfl

/-- After a latched branch the step goes on with the slot (R291). -/
theorem finishStep_latched {t : State} {target : Word} (h : t.delaySlot = some target) :
    finishStep (.next t) = andThen (andThen (andThen (interpose t) runSlot) interpose) sample := by
  have branch : finishBranch t = andThen (interpose t) runSlot := by rw [finishBranch, h]
  show andThen (andThen (finishBranch t) interpose) sample = _
  rw [branch]

/-! ### The statements -/

/-- Settles O4: the fetch, the moves after it, then one case for each outcome of the instruction. -/
theorem stepRunsTheDecodedInstruction : Obligations.StepRunsTheDecodedInstruction := by
  intro s s1 s2 op turn run slot fetched
  have stepEq := step_running turn run slot
  rw [runOne_fetched fetched] at stepEq
  refine ⟨⟨fun f e => by rw [stepEq, e]; rfl, fun r e => by rw [stepEq, e]; rfl⟩, fun moved => ?_⟩
  have c : SameCpu s s2 := (memRead_sameCpu fetched).trans (interpose_sameCpu moved)
  replace stepEq : step s = finishStep (execOpcode (op.setWidth 16) s2) := by rw [stepEq, moved]; rfl
  refine ⟨fun i decoded => ?_, fun undecoded t entered => ?_⟩
  · have executed : step s = finishStep (exec i s2) := by rw [stepEq, execOpcode, decoded]
    refine ⟨fun t e ht => ?_, fun t target e ht => ?_, fun f e => ?_, fun r e => ?_⟩
    · rw [executed, e, finishStep_next ht]
    · rw [executed, e, finishStep_latched ht]
    · rw [executed, e]; rfl
    · rw [executed, e]; rfl
  · have outside : s2.delaySlot = none := c.delaySlot.trans slot
    have illegal : execOpcode (op.setWidth 16) s2 = .next t := by
      rw [execOpcode, undecoded]
      exact (outsideSlot_none outside _).trans (by rw [raiseIllegal, c.pc, entered])
    rw [stepEq, illegal]
    exact finishStep_next ((enter_sameCpu entered).delaySlot.trans outside)

/-- Settles O54: the values are read off `State.reset`, whose boot ROM image is all zeros (log 4). -/
theorem resetLeavesTheStatedValues : Obligations.ResetLeavesTheStatedValues := by
  have pending : ∀ src : Source, State.reset.intc.pending.get src = false := by
    intro src
    cases src with
    | board b => cases b <;> rfl
    | dmac c => cases c <;> rfl
    | divu => rfl
    | wdt => rfl
  refine ⟨rfl, by decide, by decide, rfl, rfl, by decide, by decide, pending, ?_⟩
  decide

end Sys2Proof.Machine
end

section
/-! PROOFS. O59: the two ROM images (20_memory R85). Every cell any agent writes stands above them in the memory list, and what
a bank change or a reset forgets does not stand there; the induction over every step does the rest. -/

namespace Sys2Proof.Machine

/-! ### Forgetting bytes by their place -/

/-- What is listed where the places a predicate rejects are forgotten. -/
theorem Memory.get?_filter (p : Nat → Bool) (m : Memory) (a : Nat) :
    Memory.get? (m.filter fun c => p c.1) a = if p a then m.get? a else none := by
  induction m with
  | nil => exact (ite_self none).symm
  | cons c m ih =>
    obtain ⟨k, b⟩ := c
    rw [List.filter_cons]
    by_cases here : k = a
    · subst here
      cases hp : p k
      · simpa [hp] using ih
      · simp [Memory.get?]
    · cases hp : p k
      · simpa [hp, here, Memory.get?] using ih
      · simpa [hp, here, Memory.get?] using ih

/-- What is held where the places a predicate rejects are forgotten. -/
theorem State.heldByte_filter (s : State) (p : Nat → Bool) (a : Nat) :
    ({ s with mem := s.mem.filter fun c => p c.1 } : State).heldByte a = if p a then s.heldByte a else unlistedByte a := by
  rw [State.heldByte_or, State.heldByte_or]
  show (Memory.get? (s.mem.filter fun c => p c.1) a).or _ = _
  rw [Memory.get?_filter]
  cases p a <;> rfl

/-- A bank change forgets the bytes of the frame buffer and no others (R80, R84). -/
theorem State.heldByte_swapBank (s : State) (a : Nat) :
    s.swapBank.heldByte a = if inFrameBuffer a then unlistedByte a else s.heldByte a := by
  refine (s.heldByte_filter (fun k => !inFrameBuffer k) a).trans ?_
  cases inFrameBuffer a <;> rfl

/-! ### The ROM images -/

/-- The two ROM images, the length of the cartridge's and the parameters are as in `r` (R85). -/
def SameRom (r s : State) : Prop :=
  (∀ a : Nat, a < Config.frameBufferStore → s.heldByte a = r.heldByte a) ∧ s.cartLength = r.cartLength ∧
    s.params = r.params

theorem SameRom.trans {r s t : State} (h1 : SameRom r s) (h2 : SameRom s t) : SameRom r t := by
  obtain ⟨bytes1, length1, params1⟩ := h1
  obtain ⟨bytes2, length2, params2⟩ := h2
  exact ⟨fun a ha => (bytes2 a ha).trans (bytes1 a ha), length2.trans length1, params2.trans params1⟩

/-- A change of neither the memory list nor the configuration. -/
theorem SameRom.of_mem {s t : State} (mem : t.mem = s.mem) (length : t.cartLength = s.cartLength)
    (params : t.params = s.params) : SameRom s t :=
  ⟨fun a _ => by rw [State.heldByte, State.heldByte, mem], length, params⟩

/-- A write of bytes that stand above the ROM images. -/
theorem sameRom_writeCells {cs : List Host.Cell} (above : ∀ a ∈ cs.map (·.1), Config.frameBufferStore ≤ a) (s : State) :
    SameRom s (s.writeCells cs) :=
  ⟨fun a ha => State.heldByte_writeCells_of_not_mem cs s fun hm => Nat.not_lt.mpr (above a hm) ha, rfl, rfl⟩

theorem sameRom_storeCells {cs : List Host.Cell} (above : ∀ a ∈ cs.map (·.1), Config.frameBufferStore ≤ a) (s : State)
    (f : Bool) : SameRom s (s.storeCells f cs) := by
  rw [State.storeCells_eq]; exact sameRom_writeCells above s

/-- The bytes a write to a region stores stand above the ROM images (R75, R77). -/
theorem writtenCells_above_rom (r : Region) (sz : Size) (off : Nat) (v : Word) :
    ∀ a ∈ (writtenCells r sz off v).map (·.1), Config.frameBufferStore ≤ a := by
  intro a ha
  rcases writtenCells_addresses r sz off v a ha with ⟨-, h⟩ | ⟨-, h⟩ <;>
    simp only [List.mem_range'_1, Config.sdramStore, Config.frameBufferStore] at h ⊢ <;> omega

/-- So do the bytes of the on-chip storage (R470). -/
theorem onChipCells_above_rom (off : Nat) (bs : List Byte) :
    ∀ a ∈ (cellsAt (Config.onChipStore + off) bs).map (·.1), Config.frameBufferStore ≤ a := by
  intro a ha
  rw [cellsAt_addresses, List.mem_range'_1] at ha
  simp only [Config.onChipStore, Config.frameBufferStore] at ha ⊢
  omega

/-- No write of any agent changes a byte of the ROM images (R75, R77, R85). -/
theorem memWrite_sameRom {ag : Agent} {sz : Size} {addr v : Word} {s t : State} (h : memWrite ag sz addr v s = .ok t) :
    SameRom s t := by
  obtain ⟨-, rfl | ⟨-, rfl⟩ | ⟨off, -, -, rfl⟩ | ⟨off, r, -, -, rfl⟩ | ⟨off, -, -, rfl⟩ | ⟨off, -, rfl⟩ |
    ⟨r, off, -, -, rfl⟩⟩ := memWrite_cases h
  · exact .of_mem rfl rfl rfl
  · rw [State.purgeWrite_frame]; exact .of_mem rfl rfl rfl
  · exact .of_mem rfl rfl rfl
  · obtain ⟨core, mem⟩ := s.writeRegister_frame r v
    exact .of_mem mem (by rw [core]) (by rw [core])
  · exact sameRom_writeCells (onChipCells_above_rom off _) s
  · rw [State.systemWrite_frame]; exact .of_mem rfl rfl rfl
  · exact sameRom_storeCells (writtenCells_above_rom r sz off v) s _

theorem memRead_sameRom {ag : Agent} {sz : Size} {addr v : Word} {s t : State} (h : memRead ag sz addr s = .ok (v, t)) :
    SameRom s t := by
  rw [memRead_frame h]; exact .of_mem rfl rfl rfl

theorem sameRom_setChan (s : State) (c : Channel) (d : DmaChannel) : SameRom s (s.setChan c d) :=
  .of_mem (s.setChan_mem c d) (s.setChan_cartLength c d) (s.setChan_params c d)

theorem sameRom_dmaComplete (s : State) (c : Channel) : SameRom s (s.dmaComplete c) := by
  unfold State.dmaComplete
  simp only []
  split
  · exact (sameRom_setChan s c _).trans (.of_mem rfl rfl rfl)
  · exact sameRom_setChan s c _

theorem dmaUnit_sameRom {c : Channel} {s t : State} (h : dmaUnit c s = .ok t) : SameRom s t := by
  obtain ⟨ds, dd, v, s1, s2, -, -, hr, hw, rfl⟩ := dmaUnit_ok h
  have stepped := ((memRead_sameRom hr).trans (memWrite_sameRom hw)).trans
    (sameRom_setChan s2 c ((s2.chan c).stepped s2.params ds dd))
  split
  · exact stepped.trans (sameRom_dmaComplete _ c)
  · exact stepped

/-- A bank change forgets bytes of the frame buffer only (R80). -/
theorem sameRom_swapBank (s : State) : SameRom s s.swapBank := by
  refine ⟨fun a ha => ?_, rfl, rfl⟩
  have rom : inFrameBuffer a = false := by simp [inFrameBuffer, Nat.not_le.mpr ha]
  rw [State.heldByte_swapBank, rom]
  rfl

/-- A reset that succeeds keeps the ROM images (R502). -/
theorem systemReset_sameRom {s t : State} (h : systemReset s = .ok t) : SameRom s t := by
  rw [systemReset_node h]
  refine ⟨fun a ha => (s.heldByte_filter survivesReset a).trans (if_pos ?_), rfl, rfl⟩
  simp [survivesReset, inRom, ha]

theorem closedMoves_sameRom (r : State) : ClosedMoves (SameRom r) where
  dma _ _ _ h hu := h.trans (dmaUnit_sameRom hu)
  wdt _ n h := wdtStep_keeps (P := SameRom r) (fun _ _ h => h) (fun _ _ h => h)
    (fun s h t ht => h.trans (by rw [State.wdtOverflow_frame ht]; exact .of_mem rfl rfl rfl)) h n
  raise _ _ h := h
  trigger s c _ h := h.trans (sameRom_setChan s c _)
  swap s h := h.trans (sameRom_swapBank s)
  frame s off v h := by
    unfold State.hostFrameWrite
    split
    · exact h.trans (sameRom_storeCells (by simp) s true)
    · exact h
  other s sz a v h := by
    rcases s.otherNodeWrite_cases sz a v with e | ⟨region, off, -, e⟩
    · rw [e]; exact h
    · rw [e]; exact h.trans (sameRom_storeCells (writtenCells_above_rom region sz off v) s true)

theorem closedNode_sameRom (r : State) : ClosedNode (SameRom r) where
  core := {
    setReg := fun _ _ _ h => h
    setFlow := fun _ _ _ h => h
    setSr := fun _ _ h => h
    setT := fun _ _ h => h
    setQ := fun _ _ h => h
    setM := fun _ _ h => h
    setImask := fun _ _ h => h
    setMach := fun _ _ h => h
    setMacl := fun _ _ h => h
    setBoth := fun _ _ _ h => h
    setGbr := fun _ _ h => h
    setVbr := fun _ _ h => h
    setPr := fun _ _ h => h
    setRun := fun _ _ h => h
    setDraws := fun _ _ h => h
    acceptSource := fun _ src h => by cases src <;> exact h
    write := fun h hw => h.trans (memWrite_sameRom hw)
    moves := closedMoves_sameRom r
    inside := fun _ _ h => h }
  schedule := fun _ _ h => h
  reset := fun _ _ h ht => h.trans (systemReset_sameRom ht)

/-- Settles O59: the induction over every step, from the state itself. -/
theorem romContentsAreConstant : Obligations.RomContentsAreConstant := fun s t h =>
  step_keeps (closedNode_sameRom s) (.of_mem rfl rfl rfl) t h

end Sys2Proof.Machine
end

section
/-! PROOFS. O8 and O31: whose turn it is (20_memory R92 to R94), and where an instruction of two accesses stops (R64, R88,
60_exceptions R409). -/

namespace Sys2Proof.Machine

/-! ### The agents' order -/

theorem step_of_empty {s : State} (h : s.schedule = []) : step s = agentMove .core s := by
  unfold step nodeMove; rw [h]

theorem step_of_scheduled {s : State} {e : Event} {rest : List Event} (h : s.schedule = e :: rest) :
    step s = agentMove e { s with schedule := rest } := by
  unfold step nodeMove; rw [h]

/-- A sleeping core samples at every scheduling point, a running one does not (R410). -/
theorem sampleAsleep_running {s : State} (h : s.run = .running) : sampleAsleep s = .next s := by
  unfold sampleAsleep; rw [h]

theorem sampleAsleep_sleeping {s : State} (h : s.run = .sleeping) : sampleAsleep s = sample s := by
  unfold sampleAsleep; rw [h]

/-- The Host drives one request line and changes nothing else of the channels (R461). -/
theorem hostTrigger_frame (c : Channel) (v : Bool) (s : State) :
    ∃ t, moveStep (.hostTrigger c v) s = .next t ∧ (t.chan c).extTrigger = v ∧
      t = { s with dma0 := { s.dma0 with extTrigger := t.dma0.extTrigger }
                   dma1 := { s.dma1 with extTrigger := t.dma1.extTrigger } } ∧
      ∀ other, other ≠ c → t.chan other = s.chan other := by
  refine ⟨s.setChan c { s.chan c with extTrigger := v }, rfl, ?line, ?frame, ?others⟩
  case line => rw [State.chan_setChan_self]
  case frame => cases c <;> rfl
  case others => exact fun other h => State.chan_setChan_ne s h _

/-- Settles O8: whose turn it is, then what the moves are, then the points inside an instruction. -/
theorem agentsMoveInScheduleOrder : Obligations.AgentsMoveInScheduleOrder := by
  refine ⟨fun s rest => ⟨fun h => step_of_empty h, fun h => step_of_scheduled h, fun h => step_of_scheduled h,
    fun m t h moved => ?other, fun m h => stopsWith_andThen (step_of_scheduled h)⟩, fun s => ⟨?dma, ?dmaFault,
    fun _ => rfl, fun _ => rfl, fun c v => hostTrigger_frame c v s⟩, fun s t => ⟨interpose_nil,
    fun rest h => interpose_cons h, fun m ms rest h => interpose_cons h, fun h => interpose_elsewhere h⟩⟩
  case other =>
    have turn : step s = sampleAsleep t := by
      rw [step_of_scheduled h, agentMove, moved]; rfl
    exact ⟨fun running => turn.trans (sampleAsleep_running running),
      fun sleeping => turn.trans (sampleAsleep_sleeping sleeping)⟩
  case dma => intro c t h; rw [moveStep, h]; rfl
  case dmaFault => intro c f h; rw [moveStep, h]; rfl

/-! ### Instructions of two accesses -/

/-- Where the first of two accesses is answered: a move that falls between them stops the instruction (R94), and so does a
fault of what comes after the moves (R409). -/
theorem stops_between {o : Result} {s1 : State} {k : State → Result} (h : o = andThen (interpose s1) k) {s2 : State}
    {f : Fault} {faults : Prop} (hk : interpose s1 = .next s2 → faults → k s2 = .fault f) :
    StopsWith (interpose s1) o ∧ (interpose s1 = .next s2 → faults → o = .fault f) := by
  refine ⟨stopsWith_andThen h, fun moved second => ?_⟩
  rw [h, moved]
  exact hk moved second

/-- A read that is answered, and a step of the register it went through. -/
theorem memRead_setReg_sameCpu {sz : Size} {a v : Word} {s s1 s2 : State} (h : memRead .core sz a s = .ok (v, s1)) {i : Reg}
    {w : Word} (moved : interpose (s1.setReg i w) = .next s2) : SameCpu (s.setReg i w) s2 :=
  ((memRead_sameCpu h).setReg i w).trans (interpose_sameCpu moved)

/-- The second read of a multiply-accumulate: the moves that fall before it, and its own fault (R94, R224, R225). -/
theorem macOperands_second {sz : Size} {m n : Reg} {s s1 s2 : State} {v w : Word} {f : Fault} {o : Result}
    {k : Word → Word → State → Result} (ho : o = macOperands sz m n s k) (hw : s.reg n + BitVec.ofNat 32 sz.bytes = w)
    (h : memRead .core sz (s.reg n) s = .ok (v, s1)) :
    StopsWith (interpose (s1.setReg n w)) o ∧
    (interpose (s1.setReg n w) = .next s2 → memRead .core sz ((s.setReg n w).reg m) s2 = .error f → o = .fault f) := by
  have first : o = andThen (interpose (s1.setReg n w)) fun s2 =>
      loadThen sz (s2.reg m) s2 fun b s3 => k v b (s3.setReg m (s3.reg m + BitVec.ofNat 32 sz.bytes)) := by
    rw [ho, macOperands, loadThen_ok h, (memRead_sameCpu h).reg, hw]
  refine stops_between first fun moved second => ?_
  rw [← (memRead_setReg_sameCpu h moved).reg m] at second
  exact loadThen_error second _

/-- The write of a byte operation: the moves that fall before it, and its own fault (R68, R250). -/
theorem modifyByte_second {ea v : Word} {s s1 s2 : State} {f : Fault} {o : Result} {g : Word → Word}
    (ho : o = modifyByte ea g s) (h : memRead .core .byte ea s = .ok (v, s1)) :
    StopsWith (interpose s1) o ∧
    (interpose s1 = .next s2 → memWrite .core .byte ea (g v) s2 = .error f → o = .fault f) := by
  have first : o = andThen (interpose s1) (store .byte ea (g v)) := ho.trans (loadThen_ok h _)
  exact stops_between first fun _ second => storeThen_error second _

/-- The second pop of `RTE`: the moves that fall before it, and its own fault (R345). -/
theorem returnFromException_second {s s1 s2 : State} {v : Word} {f : Fault} {o : Result} (ho : o = returnFromException s)
    (h : memRead .core .long (s.reg 15) s = .ok (v, s1)) :
    StopsWith (interpose (s1.setReg 15 (s.reg 15 + 4))) o ∧
    (interpose (s1.setReg 15 (s.reg 15 + 4)) = .next s2 →
      memRead .core .long (s.reg 15 + 4) s2 = .error f → o = .fault f) := by
  have first : o = andThen (interpose (s1.setReg 15 (s.reg 15 + 4))) fun s2 =>
      popThen s2 fun w s3 => delayedBranch v (s3.setSr w) := by
    rw [ho, returnFromException, popThen, loadThen_ok h, (memRead_sameCpu h).reg]
  refine stops_between first fun moved second => ?_
  have sp : s2.reg 15 = s.reg 15 + 4 := by
    rw [(memRead_setReg_sameCpu h moved).reg, State.reg_setReg_self]
  rw [← sp] at second
  exact loadThen_error second _

/-- Settles O31: each form by the lemma of its shared operation. -/
theorem faultingAccessesStopTheInstruction : Obligations.FaultingAccessesStopTheInstruction := by
  intro s s1 s2 m n imm v f
  refine ⟨fun h => loadThen_error h _, fun h => loadThen_error h _,
    fun h => macOperands_second (o := execMacL m n s) rfl rfl h,
    fun h => macOperands_second (o := execMacW m n s) rfl rfl h,
    fun h => ⟨loadThen_error h _, loadThen_error h _, loadThen_error h _, loadThen_error h _⟩, fun h => ?bytes,
    fun h => loadUncachedThen_error h _, fun hr hw => (loadUncachedThen_ok hr _).trans (storeThen_error hw _),
    fun slot h => ?pop, fun slot h => returnFromException_second (outsideSlot_none slot _) h⟩
  case bytes =>
    obtain ⟨andStops, andFaults⟩ := modifyByte_second (f := f) (s2 := s2) (o := exec (.andB imm) s) rfl h
    obtain ⟨orStops, orFaults⟩ := modifyByte_second (f := f) (s2 := s2) (o := exec (.orB imm) s) rfl h
    obtain ⟨xorStops, xorFaults⟩ := modifyByte_second (f := f) (s2 := s2) (o := exec (.xorB imm) s) rfl h
    exact ⟨andStops, orStops, xorStops, fun moved => ⟨andFaults moved, orFaults moved, xorFaults moved⟩⟩
  case pop => exact (outsideSlot_none slot _).trans (loadThen_error h _)

end Sys2Proof.Machine
end

section
/-! PROOFS. O38 to O41 and O43: the decoder. What it answers through each of the aliases, for an address in a row of the table
and for one in none (20_memory R72 to R74), and what a read and a write do there. -/

namespace Sys2Proof.Machine

/-! ### Reads and writes by what the decoder answers -/

theorem aligned_iff (sz : Size) (a : Word) : aligned sz a = true ↔ a.toNat % sz.bytes = 0 := decide_eq_true_iff

/-- A read of a region (R60, R72, R98). -/
theorem memRead_region {ag : Agent} {sz : Size} {a : Word} {s : State} {r : Region} {off : Nat}
    (al : a.toNat % sz.bytes = 0) (hd : decodeAddress s.params ag a sz .read = .region r off) :
    memRead ag sz a s = .ok (s.regionValue (seesEarlier s.params ag a) r sz off,
      if r.drawn || seesEarlier s.params ag a then { s with draws := s.draws + 1 } else s) := by
  rw [memRead, memReadVia, if_pos ((aligned_iff sz a).mpr al), hd]

/-- A write of a region (R60, R72). -/
theorem memWrite_region {ag : Agent} {sz : Size} {a : Word} {s : State} {r : Region} {off : Nat}
    (al : a.toNat % sz.bytes = 0) (hd : decodeAddress s.params ag a sz .write = .region r off) (v : Word) :
    memWrite ag sz a v s = .ok (s.regionWrite ag (aroundCache ag a) r sz off v) := by
  rw [memWrite, if_pos ((aligned_iff sz a).mpr al), hd]

/-- A write to a purge address (R82). -/
theorem memWrite_purge {ag : Agent} {sz : Size} {a : Word} {s : State}
    (al : a.toNat % sz.bytes = 0) (hd : decodeAddress s.params ag a sz .write = .purge) (v : Word) :
    memWrite ag sz a v s = .ok (s.purgeWrite ag sz a) := by
  rw [memWrite, if_pos ((aligned_iff sz a).mpr al), hd]

/-- A read the decoder refuses, the read of a purge address among them (R82, R88). -/
theorem memRead_refused {ag : Agent} {sz : Size} {a : Word} {s : State} (al : a.toNat % sz.bytes = 0)
    (hd : decodeAddress s.params ag a sz .read ∈ [Place.purge, .unmapped, .policyViolation]) :
    memRead ag sz a s = s.refusedRead .read ag sz a := by
  rw [memRead, memReadVia, if_pos ((aligned_iff sz a).mpr al)]
  simp only [List.mem_cons, List.not_mem_nil, or_false] at hd
  rcases hd with hd | hd | hd <;> rw [hd]

/-- A write the decoder refuses (R88). -/
theorem memWrite_refused {ag : Agent} {sz : Size} {a : Word} {s : State} (al : a.toNat % sz.bytes = 0)
    (hd : decodeAddress s.params ag a sz .write ∈ [Place.unmapped, .policyViolation]) (v : Word) :
    memWrite ag sz a v s = s.refusedWrite .write ag sz a := by
  rw [memWrite, if_pos ((aligned_iff sz a).mpr al)]
  simp only [List.mem_cons, List.not_mem_nil, or_false] at hd
  rcases hd with hd | hd <;> rw [hd]

/-- Settles O38: the alignment is tested before anything else. -/
theorem misalignedAccessesFault : Obligations.MisalignedAccessesFault := by
  intro ag sz a v s h
  have misaligned : ¬ aligned sz a = true := fun al => h ((aligned_iff sz a).mp al)
  exact ⟨by rw [memRead, memReadVia, if_neg misaligned], by rw [memWrite, if_neg misaligned]⟩

/-- Settles O43: the frame of a read; a read of the store itself takes no draw, so it leaves the state as it was. -/
theorem readsHaveNoSideEffectOnTheStores : Obligations.ReadsHaveNoSideEffectOnTheStores := by
  intro ag sz a v s t h
  refine ⟨memRead_frame h, fun r off hd hr direct => ?_⟩
  have store : r.drawn = false := by rcases hr with rfl | rfl | rfl <;> rfl
  have latest : seesEarlier s.params ag a = false := by
    rcases direct with e | e <;> simp [seesEarlier, e]
  have same : t = s := by
    rw [memRead_region ((aligned_iff sz a).mp (memRead_aligned h)) hd, store, latest] at h
    cases h
    rfl
  exact ⟨same, same ▸ h⟩

/-! ### The aliases -/

/-- The bits that select among the aliases are the address divided by 2^29 (R73). -/
theorem aliasBits_toNat (a : Word) : (aliasBits a).toNat = a.toNat / 2 ^ 29 := by
  simp [aliasBits, Nat.shiftRight_eq_div_pow]; omega

theorem aliasBits_eq_iff (a : Word) (b : BitVec 3) : aliasBits a = b ↔ a.toNat / 2 ^ 29 = b.toNat := by
  rw [← aliasBits_toNat, BitVec.toNat_inj]

/-- A bit above an address adds its weight. -/
theorem toNat_or_twoPow {a : Word} {i : Nat} (h : a.toNat < 2 ^ i) (hi : i < 32) :
    (a ||| BitVec.twoPow 32 i).toNat = a.toNat + 2 ^ i := by
  have or := Nat.two_pow_add_eq_or_of_lt h 1
  rw [Nat.mul_one] at or
  rw [BitVec.toNat_or, BitVec.toNat_twoPow, Nat.mod_eq_of_lt (Nat.pow_lt_pow_right (by decide) hi), Nat.or_comm, ← or,
    Nat.add_comm]

/-- The same place by its cache-through address (R73). -/
theorem toNat_cacheThrough {a : Word} (h : a.toNat < 2 ^ 29) : (a ||| 0x20000000).toNat = a.toNat + 0x20000000 :=
  toNat_or_twoPow (i := 29) h (by decide)

/-- The same place by its purge address (R73). -/
theorem toNat_purgeAddress {a : Word} (h : a.toNat < 2 ^ 29) : (a ||| 0x40000000).toNat = a.toNat + 0x40000000 :=
  toNat_or_twoPow (i := 30) (h.trans (by decide)) (by decide)

theorem decodeRegion_purge {p : Params} {a : Word} (h : a.toNat / 2 ^ 29 = 2) (sz : Size) (kind : AccessKind) :
    decodeRegion p a sz kind = .purge := if_pos ((aliasBits_eq_iff a 0b010#3).mpr h)

/-- The aliases 0b011 to 0b111 lead nowhere (R86). -/
theorem decodeRegion_otherAlias {p : Params} {a : Word} (h : 3 ≤ a.toNat / 2 ^ 29) (sz : Size) (kind : AccessKind) :
    decodeRegion p a sz kind = .unmapped := by
  have other : ∀ b : BitVec 3, b.toNat < 3 → aliasBits a ≠ b := fun b hb e => by
    rw [aliasBits_eq_iff] at e; omega
  simp [decodeRegion, other]

/-- The direct and the cache-through aliases are those that lead to the table (R72, R73). -/
theorem aliasBits_table {a : Word} (h : a.toNat / 2 ^ 29 ≤ 1) :
    aliasBits a ≠ 0b010#3 ∧ (aliasBits a = 0b000#3 ∨ aliasBits a = 0b001#3) := by
  simp only [Ne, aliasBits_eq_iff, BitVec.toNat_ofNat]
  omega

/-- An address in no row (R72 step 4). -/
theorem decodeRegion_noRow {p : Params} {a : Word} (h : a.toNat / 2 ^ 29 ≤ 1) (hrow : regionRow p a = none) (sz : Size)
    (kind : AccessKind) : decodeRegion p a sz kind = .unmapped := by
  obtain ⟨purge, table⟩ := aliasBits_table h
  rw [decodeRegion, if_neg purge, if_pos table, hrow]

/-- An address in a row (R72 steps 4 and 5). -/
theorem decodeRegion_row {p : Params} {a : Word} {row : RegionRow} (h : a.toNat / 2 ^ 29 ≤ 1)
    (hrow : regionRow p a = some row) (sz : Size) (kind : AccessKind) :
    decodeRegion p a sz kind =
      if sz ∈ (if kind = .write then row.writes else row.reads) then .region row.region (regionAddress p a - row.base)
      else .policyViolation := by
  obtain ⟨purge, table⟩ := aliasBits_table h
  rw [decodeRegion, if_neg purge, if_pos table, hrow]

/-- The table leads to no on-chip register (R72). -/
theorem decodeRegion_ne_onChip (p : Params) (a : Word) (sz : Size) (kind : AccessKind) (off : Nat) :
    decodeRegion p a sz kind ≠ .onChip off := by
  unfold decodeRegion
  repeat' split
  all_goals exact nofun

theorem decodeAddress_offChip {p : Params} {a : Word} (h : inOnChipBlock p a = false) (ag : Agent) (sz : Size)
    (kind : AccessKind) : decodeAddress p ag a sz kind = decodeRegion p a sz kind := by
  simp [decodeAddress, h]

/-! ### The default map -/

theorem regionAddress_default {p : Params} (map : p.layout = Config.defaultLayout) (a : Word) :
    regionAddress p a = a.toNat % 2 ^ 28 := by
  rw [regionAddress, map]; rfl

theorem inOnChipBlock_default {p : Params} (map : p.layout = Config.defaultLayout) {a : Word} (h : a.toNat < 0xFFFFFE00) :
    inOnChipBlock p a = false := by
  simp [inOnChipBlock, map, Config.defaultLayout]; omega

theorem bootRomSize_default {p : Params} (map : p.layout = Config.defaultLayout) :
    bootRomSize p = if p.coreId = .master then 0x800 else 0x400 := by
  rw [bootRomSize, map]; cases p.coreId <;> rfl

/-- The table of R74, row by row. -/
theorem regionTable_default {p : Params} (map : p.layout = Config.defaultLayout) :
    regionTable p =
      [⟨.bootRom, 0, if p.coreId = .master then 0x800 else 0x400, anySize, []⟩,
       ⟨.system, 0x4000, 0x100, [.byte, .word], [.byte, .word]⟩,
       ⟨.video, 0x4100, 0x100, [.byte, .word], [.byte, .word]⟩,
       ⟨.palette, 0x4200, 0x200, [.word], [.word]⟩,
       ⟨.cart, 0x2000000, 0x400000, anySize, []⟩,
       ⟨.frameBuffer, 0x4000000, 0x20000, anySize, anySize⟩,
       ⟨.over, 0x4020000, 0x20000, anySize, anySize⟩,
       ⟨.sdram, 0x6000000, 0x40000, anySize, anySize⟩] := by
  rw [regionTable, bootRomSize_default map, map]; rfl

/-- A row's bytes end before those of any later row begin. -/
def RegionRow.before (r1 r2 : RegionRow) : Prop := r1.base + r1.size ≤ r2.base

theorem RegionRow.holds_iff (row : RegionRow) (x : Nat) : row.holds x = true ↔ row.base ≤ x ∧ x < row.base + row.size := by
  simp [RegionRow.holds]

theorem regionTable_ordered {p : Params} (map : p.layout = Config.defaultLayout) :
    (regionTable p).Pairwise RegionRow.before := by
  rw [regionTable_default map]
  by_cases master : p.coreId = .master <;> simp [RegionRow.before, master]

theorem RegionRow.before.apart {r1 r2 : RegionRow} (h : r1.before r2) {x : Nat} (x1 : r1.holds x = true) :
    ¬ r2.holds x = true := by
  rw [RegionRow.holds_iff] at x1 ⊢
  rw [RegionRow.before] at h
  omega

/-- The rows of the default map are disjoint (R74, R83). -/
theorem row_unique {p : Params} (map : p.layout = Config.defaultLayout) {x : Nat} {r1 r2 : RegionRow}
    (h1 : r1 ∈ regionTable p) (h2 : r2 ∈ regionTable p) (x1 : r1.holds x = true) (x2 : r2.holds x = true) : r1 = r2 :=
  List.Pairwise.forall_of_forall_of_flip (R := fun r1 r2 => r1.holds x = true → r2.holds x = true → r1 = r2)
    (fun _ _ _ _ => rfl) ((regionTable_ordered map).imp fun h x1 x2 => absurd x2 (h.apart x1))
    ((regionTable_ordered map).imp fun h x2 x1 => absurd x2 (h.apart x1)) h1 h2 x1 x2

/-- The row found is the one that holds the address. -/
theorem regionRow_eq {p : Params} (map : p.layout = Config.defaultLayout) {a : Word} {row : RegionRow}
    (hrow : row ∈ regionTable p) (holds : row.holds (a.toNat % 2 ^ 28) = true) : regionRow p a = some row := by
  rw [← regionAddress_default map] at holds
  cases found : regionRow p a with
  | none => exact absurd holds (List.find?_eq_none.mp found row hrow)
  | some other =>
    have there : other.holds (regionAddress p a) = true :=
      List.find?_some (p := fun row : RegionRow => row.holds (regionAddress p a)) found
    rw [row_unique map (List.mem_of_find?_eq_some found) hrow there holds]

/-- What the decoder answers for an address in a row of the default map, by a direct or a cache-through address. -/
theorem decodeAddress_default {p : Params} (map : p.layout = Config.defaultLayout) {a : Word} {row : RegionRow}
    (table : a.toNat / 2 ^ 29 ≤ 1) (hrow : row ∈ regionTable p) (holds : row.holds (a.toNat % 2 ^ 28) = true) (ag : Agent)
    (sz : Size) (kind : AccessKind) :
    decodeAddress p ag a sz kind =
      if sz ∈ (if kind = .write then row.writes else row.reads) then .region row.region (a.toNat % 2 ^ 28 - row.base)
      else .policyViolation := by
  rw [decodeAddress_offChip (inOnChipBlock_default map (by omega)), decodeRegion_row table (regionRow_eq map hrow holds),
    regionAddress_default map]

theorem mem_anySize (sz : Size) : sz ∈ anySize := by cases sz <;> decide

/-- SDRAM by its direct and its cache-through addresses (R74, R76). -/
theorem decodeAddress_sdram_table {p : Params} (map : p.layout = Config.defaultLayout) {a : Word}
    (table : a.toNat < 0x40000000) (lo : 0x6000000 ≤ a.toNat % 2 ^ 28) (hi : a.toNat % 2 ^ 28 < 0x6040000) (ag : Agent)
    (sz : Size) (kind : AccessKind) :
    decodeAddress p ag a sz kind = .region .sdram (a.toNat % 2 ^ 28 - 0x6000000) := by
  rw [decodeAddress_default map (row := ⟨.sdram, 0x6000000, 0x40000, anySize, anySize⟩) (by omega)
    (by simp [regionTable_default map]) (by rw [RegionRow.holds_iff]; exact ⟨lo, hi⟩), ite_self, if_pos (mem_anySize sz)]

/-! ### O39: the table is one for all agents and both aliases -/

/-- With no cache state it does not matter whether a write goes around the cache. -/
theorem State.regionWrite_transparent {s : State} (h : s.params.cacheModel = .transparent) (ag : Agent) (f g : Bool)
    (r : Region) (sz : Size) (off : Nat) (v : Word) : s.regionWrite ag f r sz off v = s.regionWrite ag g r sz off v := by
  cases r
  case system => simp only [State.regionWrite, State.systemWrite, State.keepEarlier_transparent h]
  all_goals exact (State.storeCells_transparent h f _).trans (State.storeCells_transparent h g _).symm

/-- What a refused read answers does not depend on the address. -/
theorem State.refusedRead_ok_iff (s t : State) (kind : AccessKind) (ag : Agent) (sz : Size) (a v : Word) :
    s.refusedRead kind ag sz a = .ok (v, t) ↔ s.params.unmapped = .clamp ∧ (truncate sz 0xFFFFFFFF, s) = (v, t) := by
  unfold State.refusedRead
  cases s.params.unmapped <;> simp

theorem State.refusedWrite_ok_iff (s t : State) (kind : AccessKind) (ag : Agent) (sz : Size) (a : Word) :
    s.refusedWrite kind ag sz a = .ok t ↔ s.params.unmapped = .clamp ∧ s = t := by
  unfold State.refusedWrite
  cases s.params.unmapped <;> simp

/-- With no cache state a read is answered alike at two addresses that the decoder takes to one place in the table. -/
theorem memRead_ok_of_samePlace {ag : Agent} {sz : Size} {a b v : Word} {s t : State}
    (transparent : s.params.cacheModel = .transparent) (al : aligned sz b = aligned sz a)
    (place : decodeAddress s.params ag b sz .read = decodeAddress s.params ag a sz .read)
    (offChip : ∀ off, decodeAddress s.params ag a sz .read ≠ .onChip off) :
    memRead ag sz a s = .ok (v, t) ↔ memRead ag sz b s = .ok (v, t) := by
  have latest : ∀ x, seesEarlier s.params ag x = false := fun x => by simp [seesEarlier, transparent]
  simp only [memRead, memReadVia, latest, al, place]
  split
  · split
    · exact absurd ‹_› (offChip _)
    · exact Iff.rfl
    all_goals rw [State.refusedRead_ok_iff, State.refusedRead_ok_iff]
  · exact ⟨nofun, nofun⟩

/-- So is a write. -/
theorem memWrite_ok_of_samePlace {ag : Agent} {sz : Size} {a b v : Word} {s t : State}
    (transparent : s.params.cacheModel = .transparent) (al : aligned sz b = aligned sz a)
    (place : decodeAddress s.params ag b sz .write = decodeAddress s.params ag a sz .write)
    (offChip : ∀ off, decodeAddress s.params ag a sz .write ≠ .onChip off) :
    memWrite ag sz a v s = .ok t ↔ memWrite ag sz b v s = .ok t := by
  simp only [memWrite, al, place]
  split
  · split
    · exact absurd ‹_› (offChip _)
    · rw [State.regionWrite_transparent transparent]
    · rw [State.purgeWrite_transparent transparent, State.purgeWrite_transparent transparent]
    all_goals rw [State.refusedWrite_ok_iff, State.refusedWrite_ok_iff]
  · exact ⟨nofun, nofun⟩

theorem lt_of_direct {a : Word} (h : aliasBits a = 0) : a.toNat < 2 ^ 29 := by
  have := (aliasBits_eq_iff a 0).mp h
  simp at this
  omega

/-- The direct and the cache-through aliases resolve alike (R73, R83). -/
theorem decodeRegion_cacheThrough {p : Params} (map : p.layout = Config.defaultLayout) {a : Word} (h : aliasBits a = 0)
    (sz : Size) (kind : AccessKind) : decodeRegion p (a ||| 0x20000000) sz kind = decodeRegion p a sz kind := by
  have lt := lt_of_direct h
  have through := toNat_cacheThrough lt
  have address : regionAddress p (a ||| 0x20000000) = regionAddress p a := by
    rw [regionAddress_default map, regionAddress_default map, through]; omega
  have found : regionRow p (a ||| 0x20000000) = regionRow p a := by rw [regionRow, address, regionRow]
  cases row : regionRow p a with
  | none => rw [decodeRegion_noRow (by omega) row, decodeRegion_noRow (by omega) (found.trans row)]
  | some r => rw [decodeRegion_row (by omega) row, decodeRegion_row (by omega) (found.trans row), address]

/-- Settles O39: the rows stand in order, so no two share an address; the rest is read off the table. -/
theorem regionTableResolvesUniquely : Obligations.RegionTableResolvesUniquely := by
  refine ⟨fun p x map r1 h1 r2 h2 x1 x2 => row_unique map h1 h2 x1 x2,
    fun p a sz kind map direct => decodeRegion_cacheThrough map direct sz kind, ?nodes, ?bootRom, ?channels, ?accesses⟩
  case nodes =>
    intro p q row layout other
    have notBoot : ∀ base size, row ≠ ⟨.bootRom, base, size, anySize, []⟩ := by rintro base size rfl; exact other rfl
    simp [regionTable, layout, notBoot]
  case bootRom =>
    intro p q mapP mapQ master slave
    refine ⟨⟨.bootRom, 0, 2048, anySize, []⟩, ?_, ⟨.bootRom, 0, 1024, anySize, []⟩, ?_, rfl, rfl, rfl, rfl, rfl, rfl, ?_⟩ <;>
      simp [regionTable_default mapP, regionTable_default mapQ, master, slave]
  case channels =>
    intro p c a sz kind offChip
    rw [decodeAddress_offChip offChip, decodeAddress_offChip offChip]
  case accesses =>
    intro ag sz a v s t map transparent direct
    have lt := lt_of_direct direct
    have through := toNat_cacheThrough lt
    have al : aligned sz (a ||| 0x20000000) = aligned sz a := by
      rw [Bool.eq_iff_iff, aligned_iff, aligned_iff, through]
      cases sz <;> simp only [Size.bytes] <;> omega
    have place : ∀ b : Word, b.toNat < 2 ^ 30 → ∀ kind, decodeAddress s.params ag b sz kind = decodeRegion s.params b sz kind :=
      fun b hb kind => decodeAddress_offChip (inOnChipBlock_default map (by omega)) ag sz kind
    have same : ∀ kind, decodeAddress s.params ag (a ||| 0x20000000) sz kind = decodeAddress s.params ag a sz kind := by
      intro kind
      rw [place _ (by omega), place a (by omega), decodeRegion_cacheThrough map direct]
    have offChip : ∀ kind off, decodeAddress s.params ag a sz kind ≠ .onChip off := by
      intro kind off
      rw [place a (by omega)]
      exact decodeRegion_ne_onChip _ _ _ _ _
    exact ⟨memRead_ok_of_samePlace transparent al (same _) (offChip _),
      memWrite_ok_of_samePlace transparent al (same _) (offChip _)⟩

/-! ### O40: what the decoder refuses -/

/-- No row of the default map holds an address of a gap (R74). -/
theorem regionRow_gap {p : Params} (map : p.layout = Config.defaultLayout) {a : Word}
    (gap : InGap p.coreId (a.toNat % 2 ^ 28)) : regionRow p a = none := by
  rw [regionRow, regionAddress_default map, regionTable_default map, List.find?_eq_none]
  by_cases master : p.coreId = .master <;>
    simp [InGap, master, RegionRow.holds_iff] at gap ⊢ <;> omega

/-- A row whose size policy leaves the access out (R70). -/
theorem decodeAddress_policy {p : Params} (map : p.layout = Config.defaultLayout) {a : Word} {row : RegionRow}
    (table : a.toNat / 2 ^ 29 ≤ 1) (hrow : row ∈ regionTable p) (lo : row.base ≤ a.toNat % 2 ^ 28)
    (hi : a.toNat % 2 ^ 28 < row.base + row.size) {sz : Size} {kind : AccessKind}
    (refused : sz ∉ (if kind = .write then row.writes else row.reads)) (ag : Agent) :
    decodeAddress p ag a sz kind = .policyViolation := by
  rw [decodeAddress_default map table hrow ((row.holds_iff _).mpr ⟨lo, hi⟩), if_neg refused]

/-- What the decoder answers for the accesses that R70, R75, R77, R82, R86 and R88 refuse. -/
theorem decodeAddress_refused {p : Params} (map : p.layout = Config.defaultLayout) {kind : AccessKind} {sz : Size} {a : Word}
    (offChip : a.toNat < 0xFFFFFE00) (h : Refused p.coreId kind sz a) (ag : Agent) :
    decodeAddress p ag a sz kind = .unmapped ∨ decodeAddress p ag a sz kind = .policyViolation ∨
      (decodeAddress p ag a sz kind = .purge ∧ kind = .read) := by
  have region := decodeAddress_offChip (inOnChipBlock_default map offChip) ag sz kind
  rcases h with other | ⟨purge, read⟩ | ⟨table, gap | size | ⟨write, rom⟩⟩
  · exact .inl (region.trans (decodeRegion_otherAlias other sz kind))
  · exact .inr (.inr ⟨region.trans (decodeRegion_purge purge sz kind), read⟩)
  · exact .inl (region.trans (decodeRegion_noRow table (regionRow_gap map gap) sz kind))
  · refine .inr (.inl ?_)
    rcases size with ⟨lo, hi, long⟩ | ⟨lo, hi, notWord⟩
    · rcases Nat.lt_or_ge (a.toNat % 2 ^ 28) 0x4100 with system | video
      · exact decodeAddress_policy map (row := ⟨.system, 0x4000, 0x100, [.byte, .word], [.byte, .word]⟩) table
          (by simp [regionTable_default map]) lo system (by simp [long]) ag
      · exact decodeAddress_policy map (row := ⟨.video, 0x4100, 0x100, [.byte, .word], [.byte, .word]⟩) table
          (by simp [regionTable_default map]) video hi (by simp [long]) ag
    · exact decodeAddress_policy map (row := ⟨.palette, 0x4200, 0x200, [.word], [.word]⟩) table
        (by simp [regionTable_default map]) lo hi (by simp [notWord]) ag
  · refine .inr (.inl ?_)
    rcases rom with boot | ⟨lo, hi⟩
    · exact decodeAddress_policy map
        (row := ⟨.bootRom, 0, if p.coreId = .master then 0x800 else 0x400, anySize, []⟩) table
        (by simp [regionTable_default map]) (Nat.zero_le _) (by simpa using boot) (by simp [write]) ag
    · exact decodeAddress_policy map (row := ⟨.cart, 0x2000000, 0x400000, anySize, []⟩) table
        (by simp [regionTable_default map]) lo hi (by simp [write]) ag

/-- Settles O40: the refused accesses by what the decoder answers, the purge write by its frame. -/
theorem refusedAndDiscardedWrites : Obligations.RefusedAndDiscardedWrites := by
  intro ag sz a v s map al offChip
  refine ⟨fun purge => ?purge, fun refused => ?write, fun refused => ?read⟩
  case purge =>
    have place : decodeAddress s.params ag a sz .write = .purge :=
      (decodeAddress_offChip (inOnChipBlock_default map offChip) ag sz .write).trans (decodeRegion_purge purge sz .write)
    exact ⟨_, memWrite_purge al place v, s.purgeWrite_frame ag sz a, fun h => State.purgeWrite_transparent h ag sz a⟩
  case write =>
    have place := decodeAddress_refused map offChip refused ag
    rw [memWrite_refused al (by simpa using place) v, State.refusedWrite]
    exact ⟨fun h => by rw [h], fun h => by rw [h]⟩
  case read =>
    have place := decodeAddress_refused map offChip refused ag
    have ones : truncate sz 0xFFFFFFFF = BitVec.ofNat 32 (2 ^ (8 * sz.bytes) - 1) := by cases sz <;> rfl
    rw [memRead_refused al (by simp; tauto), State.refusedRead, ones]
    exact ⟨fun h => by rw [h], fun h => by rw [h]⟩

/-! ### O41: SDRAM -/

/-- A write of bytes changes the memory list and the list of earlier values alone. -/
theorem State.storeCells_frame (s : State) (f : Bool) (cs : List Host.Cell) :
    s.storeCells f cs = { s with mem := (s.storeCells f cs).mem, stale := (s.storeCells f cs).stale } := by
  rw [State.storeCells_eq]; rfl

/-- Settles O41: both aliases resolve to SDRAM, whose read takes at most a draw and whose write stores bytes. -/
theorem sdramAccessesAreAnswered : Obligations.SdramAccessesAreAnswered := by
  intro ag sz a s map al table lo hi
  refine ⟨?read, fun v => ?write⟩
  case read =>
    have answer := memRead_region al (decodeAddress_sdram_table map table lo hi ag sz .read)
    refine ⟨_, _, answer, memRead_frame answer, fun transparent => ?_⟩
    simp [seesEarlier, transparent, Region.drawn]
  case write =>
    have answer := memWrite_region al (decodeAddress_sdram_table map table lo hi ag sz .write) v
    refine ⟨_, answer, s.storeCells_frame _ _, fun transparent => ?_⟩
    have bytes := State.storeCells_transparent transparent (aroundCache ag a)
      (writtenCells .sdram sz (a.toNat % 2 ^ 28 - 0x6000000) v)
    show s.storeCells _ _ = { s with mem := (s.storeCells _ _).mem }
    rw [bytes]
    rfl

end Sys2Proof.Machine
end

section
/-! PROOFS. O42 and O44: SDRAM and the frame buffer as bytes (20_memory R60, R62, R80, R81), under either cache model (R98, R99):
which byte stands at which place after a write, and what a read joins. -/

namespace Sys2Proof.Machine

/-! ### The bytes of a value and their places -/

/-- Bytes laid out from `a`: the byte numbered `i` stands at `a + i` (R60). -/
theorem mem_cellsAt_iff {bs : List Byte} {a : Nat} {c : Host.Cell} :
    c ∈ cellsAt a bs ↔ ∃ i, bs[i]? = some c.2 ∧ c.1 = a + i := by
  induction bs generalizing a with
  | nil => simp [cellsAt]
  | cons b bs ih =>
    rw [cellsAt, List.mem_cons, ih]
    constructor
    · rintro (rfl | ⟨i, hb, place⟩)
      · exact ⟨0, rfl, rfl⟩
      · exact ⟨i + 1, hb, by omega⟩
    · rintro ⟨i, hb, place⟩
      cases i with
      | zero => exact .inl (Prod.ext place (by simpa using hb.symm))
      | succ i => exact .inr ⟨i, by simpa using hb, by omega⟩

/-- The places of bytes laid out one after another are different. -/
theorem cellsAt_nodup (a : Nat) (bs : List Byte) : ((cellsAt a bs).map (·.1)).Nodup := by
  rw [cellsAt_addresses]; exact List.nodup_range'

/-- Each of several bytes written at different places is held at its own. -/
theorem State.heldByte_writeCells_of_mem (cs : List Host.Cell) : ∀ {s : State}, s.mem.wf = true → (cs.map (·.1)).Nodup →
    ∀ c ∈ cs, (s.writeCells cs).heldByte c.1 = some c.2 := by
  induction cs with
  | nil => exact fun _ _ _ h => nomatch h
  | cons d cs ih =>
    intro s hwf nodup c hc
    rw [List.map_cons, List.nodup_cons] at nodup
    rw [State.writeCells_cons]
    rcases List.mem_cons.mp hc with rfl | hc
    · rw [State.heldByte_writeCells_of_not_mem _ _ nodup.1, State.heldByte_writeCells_one hwf, if_pos rfl]
    · exact ih (State.wf_writeCells hwf _) nodup.2 c hc

/-- The byte numbered `i` of a value, the most significant first (R60). -/
theorem beBytes_getElem? {sz : Size} {i : Nat} (h : i < sz.bytes) (v : Word) :
    (beBytes sz v)[i]? = some ((v >>> (8 * (sz.bytes - 1 - i))).setWidth 8) := by
  have cut : ∀ k, v.extractLsb' k 8 = (v >>> k).setWidth 8 := fun k => by
    ext j hj; simp
  cases sz <;> simp only [Size.bytes] at h <;> interval_cases i <;> simp [beBytes, Size.bytes, cut]

/-- A byte as a read returns it (R66). -/
theorem setWidth_byte (v : Word) : (v.setWidth 8).setWidth 32 = v &&& 0xFF := by
  apply BitVec.eq_of_toNat_eq
  rw [BitVec.toNat_setWidth, BitVec.toNat_setWidth, BitVec.toNat_and,
    Nat.mod_eq_of_lt ((Nat.mod_lt _ (by decide)).trans (by decide : 2 ^ 8 < 2 ^ 32))]
  exact (Nat.and_two_pow_sub_one_eq_mod v.toNat 8).symm

theorem lowByte_setWidth (v : Word) : (v.extractLsb' 0 8).setWidth 32 = v &&& 0xFF := by
  rw [← BitVec.setWidth_eq_extractLsb' (by decide), setWidth_byte]

/-- A byte joined with nothing before it. -/
theorem beValue_one (b : Byte) : beValue [b] = b.setWidth 32 := by simp [beValue]

/-! ### What a read of the store itself finds -/

/-- The value of a byte outside the frame buffer: the byte held, or the one it got at reset (R76). -/
def State.storeByte (s : State) (a : Nat) : Byte := (s.heldByte a).getD (Config.initialByte s.epoch a)

theorem State.valueOf_store {s : State} {a : Nat} (h : Config.sdramStore ≤ a) (lane : Nat) (held : Option Byte) :
    s.valueOf a lane held = held.getD (Config.initialByte s.epoch a) := by
  have outside : inFrameBuffer a = false := by simp [inFrameBuffer, Nat.not_lt.mpr h]
  cases held with
  | none => rw [State.valueOf, outside]; rfl
  | some b => rfl

theorem not_inCartPadding (length : Nat) {a : Nat} (h : Config.frameBufferStore ≤ a) : inCartPadding length a = false := by
  simp [inCartPadding, Nat.not_lt.mpr h]

/-- A read that sees the store itself, or a byte with no earlier value to be seen (R98). -/
theorem State.readByte_store {s : State} {cached : Bool} {a : Nat} (latest : cached = false ∨ s.earlier a = [])
    (h : Config.sdramStore ≤ a) (lane : Nat) : s.readByte cached a lane = s.storeByte a := by
  have image := not_inCartPadding s.cartLength (Nat.le_trans (by decide) h)
  rw [State.readByte, image, State.pick_latest s latest, State.valueOf_store h]
  rfl

/-- The bytes a read of SDRAM joins (R60, R62). -/
theorem State.regionBytes_sdram (s : State) (off lane n : Nat) :
    s.regionBytes false .sdram off lane n = (List.range' (Config.sdramStore + off) n).map s.storeByte := by
  induction n generalizing off lane with
  | zero => rfl
  | succ n ih =>
    have first := State.readByte_store (s := s) (.inl rfl) (Nat.le_add_right Config.sdramStore off) lane
    rw [List.range'_succ, List.map_cons, ← first, Nat.add_assoc, ← ih (off + 1) (lane + 1)]
    rfl

/-- An address of SDRAM on the default map, by its direct or its cache-through address (R74). -/
structure InSdram (a : Word) : Prop where
  table : a.toNat < 0x40000000
  lo : 0x6000000 ≤ a.toNat % 2 ^ 28
  hi : a.toNat % 2 ^ 28 < 0x6040000

theorem InSdram.of_direct {a : Word} (lo : 0x6000000 ≤ a.toNat) (hi : a.toNat < 0x6040000) : InSdram a :=
  ⟨by omega, by omega, by omega⟩

/-- Where the byte of an SDRAM address stands. -/
def sdramPlace (a : Word) : Nat := Config.sdramStore + (a.toNat % 2 ^ 28 - 0x6000000)

theorem sdramPlace_direct {a : Word} (hi : a.toNat < 0x6040000) :
    sdramPlace a = Config.sdramStore + (a.toNat - 0x6000000) := by
  have low : a.toNat % 2 ^ 28 = a.toNat := by omega
  exact congrArg (fun x => Config.sdramStore + (x - 0x6000000)) low

theorem sdramStore_le_place (a : Word) : Config.sdramStore ≤ sdramPlace a := Nat.le_add_right _ _

theorem InSdram.decode {a : Word} (h : InSdram a) {p : Params} (map : p.layout = Config.defaultLayout) (ag : Agent)
    (sz : Size) (kind : AccessKind) :
    decodeAddress p ag a sz kind = .region .sdram (a.toNat % 2 ^ 28 - 0x6000000) :=
  decodeAddress_sdram_table map h.table h.lo h.hi ag sz kind

/-- A read of SDRAM that sees the store itself joins the bytes at its places and changes nothing (R60, R62). -/
theorem memRead_sdram_store {ag : Agent} {sz : Size} {a : Word} {s : State} (map : AtDefaultMap s)
    (latest : seesEarlier s.params ag a = false) (al : a.toNat % sz.bytes = 0) (h : InSdram a) :
    memRead ag sz a s = .ok (beValue ((List.range' (sdramPlace a) sz.bytes).map s.storeByte), s) := by
  rw [memRead_region al (h.decode map ag sz .read), latest, State.regionValue, State.regionBytes_sdram]
  rfl

/-- So does a byte read. -/
theorem memRead_sdram_byte {a : Word} {s : State} (map : AtDefaultMap s)
    (latest : seesEarlier s.params .core a = false) (h : InSdram a) :
    memRead .core .byte a s = .ok ((s.storeByte (sdramPlace a)).setWidth 32, s) := by
  rw [memRead_sdram_store map latest (Nat.mod_one _) h]
  exact congrArg (fun v => Except.ok (v, s)) (beValue_one _)

theorem seesEarlier_transparent {p : Params} (h : p.cacheModel = .transparent) (ag : Agent) (a : Word) :
    seesEarlier p ag a = false := by simp [seesEarlier, h]

/-- A write of SDRAM stores the bytes of the value at their places (R60, R76). -/
theorem memWrite_sdram_store {ag : Agent} {sz : Size} {a : Word} {s : State} (map : AtDefaultMap s)
    (al : a.toNat % sz.bytes = 0) (h : InSdram a) (v : Word) :
    memWrite ag sz a v s = .ok (s.storeCells (aroundCache ag a) (cellsAt (sdramPlace a) (beBytes sz v))) :=
  memWrite_region al (h.decode map ag sz .write) v

/-! ### O42: with no cache state -/

/-- What a byte of SDRAM holds after a write: the value's byte at its place, or what it held before (R60, R62). -/
theorem storeByte_after_write {ag : Agent} {sz : Size} {a b v : Word} {s t : State} (map : AtDefaultMap s)
    (transparent : s.params.cacheModel = .transparent) (hwf : CanonicalMemory s) (lo : 0x6000000 ≤ a.toNat)
    (hi : a.toNat < 0x6040000) (lo' : 0x6000000 ≤ b.toNat) (hi' : b.toNat < 0x6040000)
    (w : memWrite ag sz a v s = .ok t) :
    t.storeByte (sdramPlace b) =
      if a.toNat ≤ b.toNat ∧ b.toNat < a.toNat + sz.bytes then
        (v >>> (8 * (a.toNat + sz.bytes - 1 - b.toNat))).setWidth 8
      else s.storeByte (sdramPlace b) := by
  obtain ⟨al, -⟩ := memWrite_cases w
  rw [memWrite_sdram_store map ((aligned_iff sz a).mp al) (.of_direct lo hi), State.storeCells_transparent transparent] at w
  cases w
  rw [State.storeByte, State.writeCells_epoch, sdramPlace_direct hi, sdramPlace_direct hi']
  split
  · obtain ⟨i, place⟩ : ∃ i, b.toNat = a.toNat + i := ⟨b.toNat - a.toNat, by omega⟩
    have number : i < sz.bytes := by omega
    have shift : a.toNat + sz.bytes - 1 - b.toNat = sz.bytes - 1 - i := by omega
    have cell : (Config.sdramStore + (b.toNat - 0x6000000), (v >>> (8 * (sz.bytes - 1 - i))).setWidth 8) ∈
        cellsAt (Config.sdramStore + (a.toNat - 0x6000000)) (beBytes sz v) :=
      mem_cellsAt_iff.mpr ⟨i, beBytes_getElem? number v, by simp only []; omega⟩
    rw [shift, State.heldByte_writeCells_of_mem _ hwf (cellsAt_nodup _ _) _ cell, Option.getD_some]
  · have outside : Config.sdramStore + (b.toNat - 0x6000000) ∉
        (cellsAt (Config.sdramStore + (a.toNat - 0x6000000)) (beBytes sz v)).map (·.1) := by
      rw [cellsAt_addresses, beBytes_length, List.mem_range'_1]
      omega
    rw [State.heldByte_writeCells_of_not_mem _ _ outside]
    rfl

/-- A word is the join of two bytes, the most significant first (R60, R62). -/
theorem beValue_two (x y : Byte) : beValue [x, y] = (x.setWidth 32 <<< 8) ||| y.setWidth 32 := by simp [beValue]

/-- A longword is the join of four (R60, R62). -/
theorem beValue_four (x y z w : Byte) :
    beValue [x, y, z, w] =
      (x.setWidth 32 <<< 24) ||| (y.setWidth 32 <<< 16) ||| (z.setWidth 32 <<< 8) ||| w.setWidth 32 := by
  simp [beValue, BitVec.shiftLeft_or_distrib, ← BitVec.shiftLeft_add]

/-! ### Bytes the core wrote last, in any store -/

/-- A read returns the bytes the core wrote last, most significant first, in any region whose bytes stand from `base` on. -/
theorem State.regionBytes_coreWroteAll_of_backing {s : State} {cached : Bool}
    (hc : cached = true → s.params.cacheModel = .staleDraw) {r : Region} {base : Nat}
    (store : ∀ off, backing s.cartLength r off = some (base + off)) (above : Config.frameBufferStore ≤ base)
    (bs : List Byte) : ∀ (off lane : Nat),
    s.CoreWroteAll (base + off) bs → s.regionBytes cached r off lane bs.length = bs := by
  induction bs with
  | nil => intros; rfl
  | cons b bs ih =>
    intro off lane h
    have first : s.readByte cached (base + off) lane = b :=
      (h _ List.mem_cons_self).readByte hc (Nat.le_trans above (Nat.le_add_right _ _)) lane
    have rest := ih (off + 1) (lane + 1) fun c hc' => h c (List.mem_cons_of_mem _ hc')
    simp only [List.length_cons, State.regionBytes, store, first, rest]

/-- So a read of the core returns the value whose bytes it wrote last, cut to the access (R99). -/
theorem memRead_coreWroteAll {s : State} {sz : Size} {a v : Word} {r : Region} {off base : Nat}
    (al : a.toNat % sz.bytes = 0) (hd : decodeAddress s.params .core a sz .read = .region r off)
    (store : ∀ off, backing s.cartLength r off = some (base + off)) (above : Config.frameBufferStore ≤ base)
    (h : s.CoreWroteAll (base + off) (beBytes sz v)) : ∃ u, memRead .core sz a s = .ok (truncate sz v, u) := by
  have stale : seesEarlier s.params .core a = true → s.params.cacheModel = .staleDraw := by
    simp +contextual [seesEarlier]
  have bytes := State.regionBytes_coreWroteAll_of_backing stale store above (beBytes sz v) off 0 h
  have notSystem : ¬ (r = .system ∧ reachesMask off sz = true) := by
    rintro ⟨rfl, -⟩
    exact nomatch store 0
  rw [beBytes_length] at bytes
  rw [memRead_region al hd, State.regionValue, bytes, beValue_beBytes]
  simp only [if_neg notSystem]
  exact ⟨_, rfl⟩

/-! ### O42: under `stale_draw` -/

/-- A write to the purge address of an SDRAM byte takes its earlier values off the list (R98). -/
theorem memWrite_sdram_purge {a : Word} {s : State} (map : AtDefaultMap s) (stale : s.params.cacheModel = .staleDraw)
    (lo : 0x6000000 ≤ a.toNat) (hi : a.toNat < 0x6040000) (x : Word) :
    memWrite .core .byte (a ||| 0x40000000) x s = .ok (s.purgeByte (sdramPlace a)) := by
  have purge := toNat_purgeAddress (a := a) (by omega)
  have place : decodeAddress s.params .core (a ||| 0x40000000) .byte .write = .purge :=
    (decodeAddress_offChip (inOnChipBlock_default map (by omega)) _ _ _).trans (decodeRegion_purge (by omega) _ _)
  have low : (a ||| 0x40000000).toNat % 2 ^ 28 = a.toNat % 2 ^ 28 := by omega
  have row : regionRow s.params (a ||| 0x40000000) = some ⟨.sdram, 0x6000000, 0x40000, anySize, anySize⟩ :=
    regionRow_eq map (by simp [regionTable_default map]) (by rw [RegionRow.holds_iff, low]; simp only []; omega)
  rw [memWrite_purge (Nat.mod_one _) place]
  simp only [State.purgeWrite, stale, row, regionAddress_default map, low]
  rfl

/-- What a read may see of a byte: what is held, or an earlier value (R98). -/
theorem State.readByte_seen (s : State) (cached : Bool) {k : Nat} (h : Config.sdramStore ≤ k) (lane : Nat) :
    s.readByte cached k lane = s.valueOf k lane (s.heldByte k) ∨
      ∃ old ∈ s.history k, s.readByte cached k lane = s.valueOf k lane old := by
  have image := not_inCartPadding s.cartLength (Nat.le_trans (by decide) h)
  rw [State.readByte, image]
  rcases s.pick_mem cached k lane (s.heldByte k) with latest | old
  · exact .inl (congrArg (s.valueOf k lane) latest)
  · refine .inr ⟨_, ?_, rfl⟩
    unfold State.earlier at old
    split at old
    · exact old
    · exact nomatch old

/-- A byte another agent wrote, or the core around its cache: it is held, and its earlier values are kept (R98). -/
theorem State.storeCells_one_foreign {s : State} (stale : s.params.cacheModel = .staleDraw) (hwf : CanonicalMemory s)
    (k : Nat) (b : Byte) :
    (s.storeCells true [(k, b)]).heldByte k = some b ∧
      (s.storeCells true [(k, b)]).history k = s.heldByte k :: s.history k := by
  constructor
  · rw [State.heldByte_storeCells, State.heldByte_writeCells_one hwf, if_pos rfl]
  · exact (State.history_keepEarlier stale true k k _).trans (if_pos rfl)

/-- A byte whose earlier values are purged is as if the core had written it last (R98). -/
theorem State.coreWroteAll_purgeByte {s : State} {k : Nat} {v : Word} (held : s.heldByte k = some (v.extractLsb' 0 8)) :
    (s.purgeByte k).CoreWroteAll k (beBytes .byte v) := by
  intro c hc
  obtain rfl : c = (k, v.extractLsb' 0 8) := List.mem_singleton.mp hc
  exact ⟨held, fun _ => (s.writtenAround_purgeByte k k).trans (if_pos rfl)⟩

/-- A byte of SDRAM the core wrote last, or purged, is read back through the cache (R98, R99). -/
theorem memRead_sdram_coreWrote {s : State} (map : AtDefaultMap s) {a v : Word} (h : InSdram a)
    (wrote : s.CoreWroteAll (sdramPlace a) (beBytes .byte v)) :
    ∃ u, memRead .core .byte a s = .ok (v &&& 0xFF, u) := by
  rw [← setWidth_byte]
  exact memRead_coreWroteAll (Nat.mod_one _) (h.decode map .core .byte .read) (fun _ => rfl) (by decide) wrote

/-- After a purge a byte is read as it is held (R98). -/
theorem sdram_read_after_purge {s : State} (map : AtDefaultMap s) {a v : Word} (h : InSdram a)
    (held : s.heldByte (sdramPlace a) = some (v.extractLsb' 0 8)) :
    ∃ u, memRead .core .byte a (s.purgeByte (sdramPlace a)) = .ok (v &&& 0xFF, u) := by
  have mapP : AtDefaultMap (s.purgeByte (sdramPlace a)) := by rw [State.purgeByte_frame]; exact map
  exact memRead_sdram_coreWrote mapP h (State.coreWroteAll_purgeByte held)

/-- The core's own write of a byte is read back at once (R99). -/
theorem sdram_own_write_read_back {a v : Word} {s t : State} (map : AtDefaultMap s) (hwf : CanonicalMemory s)
    (lo : 0x6000000 ≤ a.toNat) (hi : a.toNat < 0x6040000) (w : memWrite .core .byte a v s = .ok t) :
    ∃ u, memRead .core .byte a t = .ok (v &&& 0xFF, u) := by
  have direct : aliasBits a = 0b000#3 := aliasBits_direct (by omega)
  have through : aroundCache .core a = false := by simp [aroundCache, direct]
  have mapT : AtDefaultMap t := (congrArg Params.layout (memWrite_sameCpu w).params).trans map
  rw [memWrite_sdram_store map (Nat.mod_one _) (.of_direct lo hi), through] at w
  cases w
  exact memRead_sdram_coreWrote mapT (.of_direct lo hi) (State.coreWroteAll_storeCells hwf _ _)

/-- Around the cache a read sees the byte held (R98). -/
theorem sdram_cacheThrough {a v : Word} {s : State} (map : AtDefaultMap s) (lo : 0x6000000 ≤ a.toNat)
    (hi : a.toNat < 0x6040000) (held : s.heldByte (sdramPlace a) = some (v.extractLsb' 0 8)) :
    ∃ u, memRead .core .byte (a ||| 0x20000000) s = .ok (v &&& 0xFF, u) := by
  have through := toNat_cacheThrough (a := a) (by omega)
  have place : sdramPlace (a ||| 0x20000000) = sdramPlace a := by
    have low : (a ||| 0x20000000).toNat % 2 ^ 28 = a.toNat % 2 ^ 28 := by omega
    exact congrArg (fun x => Config.sdramStore + (x - 0x6000000)) low
  have notDirect : aliasBits (a ||| 0x20000000) ≠ 0b000#3 := by
    rw [Ne, aliasBits_eq_iff, through, BitVec.toNat_ofNat]; omega
  have latest : seesEarlier s.params .core (a ||| 0x20000000) = false := by
    rw [seesEarlier, decide_eq_false notDirect, Bool.and_false]
  rw [memRead_sdram_byte map latest ⟨by omega, by omega, by omega⟩, place, State.storeByte, held, Option.getD_some,
    lowByte_setWidth]
  exact ⟨s, rfl⟩

/-- Through the cache it sees that byte or one of the earlier values (R98). -/
theorem sdram_cached_seen {a v : Word} {s : State} {olds : List (Option Byte)} (map : AtDefaultMap s) (h : InSdram a)
    (held : s.heldByte (sdramPlace a) = some (v.extractLsb' 0 8)) (history : s.history (sdramPlace a) = olds) :
    ∃ w u, memRead .core .byte a s = .ok (w, u) ∧
      (w = v &&& 0xFF ∨ ∃ old ∈ olds, w = (s.valueOf (sdramPlace a) 0 old).setWidth 32) := by
  have answer := memRead_region (Nat.mod_one _) (h.decode map .core .byte .read)
  have value : s.regionValue (seesEarlier s.params .core a) .sdram .byte (a.toNat % 2 ^ 28 - 0x6000000) =
      (s.readByte (seesEarlier s.params .core a) (sdramPlace a) 0).setWidth 32 := beValue_one _
  refine ⟨_, _, answer, ?_⟩
  rw [value]
  rcases s.readByte_seen (seesEarlier s.params .core a) (sdramStore_le_place a) 0 with latest | ⟨old, mem, seen⟩
  · refine .inl ?_
    rw [latest, held, ← lowByte_setWidth]
    rfl
  · exact .inr ⟨old, history ▸ mem, by rw [seen]⟩

/-- Settles O42: the bytes after a write, the joins of a read, and what the aliases show of a byte another agent wrote. -/
theorem sdramIsBigEndianBytes : Obligations.SdramIsBigEndianBytes := by
  refine ⟨?bytes, ?joins, ?stale⟩
  case bytes =>
    intro ag sz a b v s t map transparent hwf lo hi lo' hi' w
    have params : t.params = s.params := (memWrite_sameCpu w).params
    have mapT : AtDefaultMap t := (congrArg Params.layout params).trans map
    have transparentT : t.params.cacheModel = .transparent := (congrArg Params.cacheModel params).trans transparent
    rw [memRead_sdram_byte mapT (seesEarlier_transparent transparentT _ _) (.of_direct lo' hi'),
      memRead_sdram_byte map (seesEarlier_transparent transparent _ _) (.of_direct lo' hi'),
      storeByte_after_write map transparent hwf lo hi lo' hi' w]
    split
    · rw [setWidth_byte]
    · rfl
  case joins =>
    intro s a b0 b1 b2 b3 map transparent lo hi al r0 r1 r2 r3
    have n1 : (a + 1).toNat = a.toNat + 1 := by bv_omega
    have n2 : (a + 2).toNat = a.toNat + 2 := by bv_omega
    have n3 : (a + 3).toNat = a.toNat + 3 := by bv_omega
    have p1 : sdramPlace (a + 1) = sdramPlace a + 1 := by
      rw [sdramPlace_direct (by omega), sdramPlace_direct (by omega)]; omega
    have p2 : sdramPlace (a + 2) = sdramPlace a + 2 := by
      rw [sdramPlace_direct (by omega), sdramPlace_direct (by omega)]; omega
    have p3 : sdramPlace (a + 3) = sdramPlace a + 3 := by
      rw [sdramPlace_direct (by omega), sdramPlace_direct (by omega)]; omega
    have latest := seesEarlier_transparent transparent .core
    rw [memRead_sdram_byte map (latest _) (.of_direct (by omega) (by omega))] at r0 r1 r2 r3
    rw [p1] at r1
    rw [p2] at r2
    rw [p3] at r3
    cases r0; cases r1; cases r2; cases r3
    rw [memRead_sdram_store map (latest _) (by simp only [Size.bytes]; omega) (.of_direct (by omega) (by omega)),
      memRead_sdram_store map (latest _) (by simp only [Size.bytes]; omega) (.of_direct (by omega) (by omega)),
      memRead_sdram_store map (latest _) al (.of_direct (by omega) (by omega)), p2, ← beValue_two, ← beValue_two,
      ← beValue_four]
    exact ⟨rfl, rfl, rfl⟩
  case stale =>
    intro c a v x s t k map stale hwf lo hi place
    obtain rfl : sdramPlace a = k := (sdramPlace_direct hi).trans place.symm
    refine ⟨fun w => ?foreign, sdram_own_write_read_back map hwf lo hi⟩
    have params : t.params = s.params := (memWrite_sameCpu w).params
    have mapT : AtDefaultMap t := (congrArg Params.layout params).trans map
    have staleT : t.params.cacheModel = .staleDraw := (congrArg Params.cacheModel params).trans stale
    have own := InSdram.of_direct lo hi
    have around : aroundCache (.dmac c) a = true := rfl
    rw [memWrite_sdram_store map (Nat.mod_one _) own, around] at w
    cases w
    obtain ⟨held, history⟩ := State.storeCells_one_foreign stale hwf (sdramPlace a) (v.extractLsb' 0 8)
    obtain ⟨u, purged⟩ := sdram_read_after_purge mapT own held
    exact ⟨sdram_cacheThrough mapT lo hi held, sdram_cached_seen mapT own held history, _, u,
      memWrite_sdram_purge mapT staleT lo hi x, purged⟩

/-! ### O44: the frame buffer -/

/-- An address of the frame buffer's own window on the default map (R74). -/
theorem decodeAddress_frameBuffer {p : Params} (map : p.layout = Config.defaultLayout) {a : Word}
    (lo : 0x4000000 ≤ a.toNat) (hi : a.toNat < 0x4020000) (sz : Size) (kind : AccessKind) :
    decodeAddress p .core a sz kind = .region .frameBuffer (a.toNat - 0x4000000) := by
  have low : a.toNat % 2 ^ 28 = a.toNat := by omega
  rw [decodeAddress_default map (row := ⟨.frameBuffer, 0x4000000, 0x20000, anySize, anySize⟩) (by omega)
    (by simp [regionTable_default map]) (by rw [RegionRow.holds_iff, low]; exact ⟨lo, hi⟩), ite_self,
    if_pos (mem_anySize sz), low]

/-- The same byte through the over region (R74, R81). -/
theorem decodeAddress_over {p : Params} (map : p.layout = Config.defaultLayout) {a : Word}
    (lo : 0x4000000 ≤ a.toNat) (hi : a.toNat < 0x4020000) (sz : Size) (kind : AccessKind) :
    decodeAddress p .core (a + 0x20000) sz kind = .region .over (a.toNat - 0x4000000) := by
  have next : (a + 0x20000).toNat = a.toNat + 0x20000 := by bv_omega
  have low : (a + 0x20000).toNat % 2 ^ 28 = a.toNat + 0x20000 := by omega
  have off : a.toNat + 0x20000 - 0x4020000 = a.toNat - 0x4000000 := by omega
  have within : (⟨.over, 0x4020000, 0x20000, anySize, anySize⟩ : RegionRow).holds ((a + 0x20000).toNat % 2 ^ 28) = true := by
    rw [RegionRow.holds_iff, low]
    simp only []
    omega
  rw [decodeAddress_default map (by omega) (by simp [regionTable_default map]) within, ite_self, if_pos (mem_anySize sz),
    low, off]

theorem inFrameBuffer_window {off : Nat} (h : off < 0x20000) :
    inFrameBuffer (Config.frameBufferStore + off) = true := by
  have lo : Config.frameBufferStore ≤ Config.frameBufferStore + off := Nat.le_add_right _ _
  have hi : Config.frameBufferStore + off < Config.sdramStore := by
    unfold Config.frameBufferStore Config.sdramStore; omega
  rw [inFrameBuffer, decide_eq_true lo, decide_eq_true hi]
  rfl

/-- A byte of the frame buffer is forgotten by a bank change (R80, R84). -/
theorem State.heldByte_swapBank_frameBuffer (s : State) {k : Nat} (h : inFrameBuffer k = true) :
    s.swapBank.heldByte k = none := by
  have notRom : inRom k = false := by
    simp only [inFrameBuffer, Bool.and_eq_true, decide_eq_true_eq] at h
    simpa [inRom] using h.1
  rw [State.heldByte_swapBank, if_pos h, unlistedByte, notRom]
  rfl

/-- What the core writes to the frame buffer it reads back through both windows, until the bank changes (R80, R81, R84). -/
theorem frameBuffer_read_back {s t : State} {sz : Size} {a v : Word} (map : AtDefaultMap s) (hwf : CanonicalMemory s)
    (al : a.toNat % sz.bytes = 0) (lo : 0x4000000 ≤ a.toNat) (hi : a.toNat < 0x4020000)
    (w : memWrite .core sz a v s = .ok t) :
    (∃ u, memRead .core sz a t = .ok (truncate sz v, u)) ∧
    (∃ u, memRead .core sz (a + 0x20000) t = .ok (truncate sz v, u)) := by
  have through : aroundCache .core a = false := by
    have direct : aliasBits a = 0b000#3 := aliasBits_direct (by omega)
    simp [aroundCache, direct]
  have alOver : (a + 0x20000).toNat % sz.bytes = 0 := by
    have next : (a + 0x20000).toNat = a.toNat + 0x20000 := by bv_omega
    rw [next]
    cases sz <;> simp only [Size.bytes] at al ⊢ <;> omega
  have mapT : AtDefaultMap t := (congrArg Params.layout (memWrite_sameCpu w).params).trans map
  have wrote : t.CoreWroteAll (Config.frameBufferStore + (a.toNat - 0x4000000)) (beBytes sz v) := by
    rw [memWrite_region al (decodeAddress_frameBuffer map lo hi sz .write), through] at w
    cases w
    exact State.coreWroteAll_storeCells hwf _ _
  exact ⟨memRead_coreWroteAll al (decodeAddress_frameBuffer mapT lo hi sz .read) (fun _ => rfl) (Nat.le_refl _) wrote,
    memRead_coreWroteAll alOver (decodeAddress_over mapT lo hi sz .read) (fun _ => rfl) (Nat.le_refl _) wrote⟩

/-- A write to the over region, byte by byte: what is not 0 is stored, what is 0 leaves its place alone (R81). -/
theorem State.heldByte_storeCells_over {s : State} (hwf : CanonicalMemory s) (f : Bool) {sz : Size} {off k : Nat} {v : Word}
    {b : Byte} (hb : (beBytes sz v)[k]? = some b) :
    (s.storeCells f (writtenCells .over sz off v)).heldByte (Config.frameBufferStore + off + k) =
      if b = 0 then s.heldByte (Config.frameBufferStore + off + k) else some b := by
  have nodup : ((writtenCells .over sz off v).map (·.1)).Nodup :=
    (List.filter_sublist.map _).nodup (cellsAt_nodup _ _)
  rw [State.heldByte_storeCells]
  split
  · rename_i zero
    refine State.heldByte_writeCells_of_not_mem _ s fun place => ?_
    obtain ⟨c, hc, here⟩ := List.mem_map.mp place
    obtain ⟨laid, nonzero⟩ := List.mem_filter.mp hc
    obtain ⟨i, hi, there⟩ := mem_cellsAt_iff.mp laid
    obtain rfl : i = k := by omega
    rw [hb] at hi
    simp [← Option.some.inj hi, zero] at nonzero
  · rename_i nonzero
    have stored : (Config.frameBufferStore + off + k, b) ∈ writtenCells .over sz off v :=
      List.mem_filter.mpr ⟨mem_cellsAt_iff.mpr ⟨k, hb, rfl⟩, by simpa using nonzero⟩
    exact State.heldByte_writeCells_of_mem _ hwf nodup _ stored

/-- Settles O44: the core reads back what it wrote last, through both windows; the over region byte by byte. -/
theorem frameBufferAndOverRegion : Obligations.FrameBufferAndOverRegion := by
  refine ⟨fun s t sz a v map hwf al lo hi w => ?held, fun ag sz a v s t off k b hwf hd w _ hb => ?skipped⟩
  case held =>
    obtain ⟨window, overWindow⟩ := frameBuffer_read_back map hwf al lo hi w
    have inside := inFrameBuffer_window (off := a.toNat - 0x4000000) (by omega)
    have bank : t.fbBank = s.fbBank := by rw [memWrite_sameCore w]
    exact ⟨window, overWindow, t.heldByte_swapBank_frameBuffer inside, congrArg (!·) bank⟩
  case skipped =>
    obtain ⟨al, -⟩ := memWrite_cases w
    rw [memWrite_region ((aligned_iff sz a).mp al) hd] at w
    cases w
    exact State.heldByte_storeCells_over hwf _ hb

end Sys2Proof.Machine
end

section
/-! PROOFS. O1 to O3: the decoder and the encoder are inverse to each other (30_encoding R111, R117 to R121). An opcode is its
four nibbles, and so is every field; what remains is one walk over the instructions and one over the decoder's branches. -/

namespace Sys2Proof

/-! ### Fields as nibbles -/

@[simp] theorem reg_regNibble (r : Reg) : reg (regNibble r) = r :=
  Fin.ext (Nat.mod_eq_of_lt r.isLt)

@[simp] theorem regNibble_reg (x : Nibble) : regNibble (reg x) = x := by
  simp [regNibble, reg]

@[simp] theorem nibbleAt_byte_join (v : Byte) : nibbleAt v 4 ++ nibbleAt v 0 = v :=
  (BitVec.extractLsb'_append_extractLsb'_eq_extractLsb' rfl).trans BitVec.extractLsb'_eq_self

@[simp] theorem nibbleAt_byte_high (c d : Nibble) : nibbleAt (c ++ d) 4 = c :=
  BitVec.extractLsb'_append_eq_left

@[simp] theorem nibbleAt_low {w : Nat} (x : BitVec w) (d : Nibble) : nibbleAt (x ++ d) 0 = d :=
  BitVec.extractLsb'_append_eq_right

/-- Above the lowest nibble the numbering of the bits shifts by four. -/
theorem nibbleAt_above {w : Nat} (x : BitVec w) (d : Nibble) (lo : Nat) : nibbleAt (x ++ d) (lo + 4) = nibbleAt x lo := by
  simp [nibbleAt, BitVec.extractLsb'_append_eq_of_le]

@[simp] theorem nibbleAt_disp_join (v : BitVec 12) : nibbleAt v 8 ++ nibbleAt v 4 ++ nibbleAt v 0 = v := by
  have upper : nibbleAt v 8 ++ nibbleAt v 4 = v.extractLsb' 4 8 :=
    BitVec.extractLsb'_append_extractLsb'_eq_extractLsb' rfl
  rw [upper]
  exact (BitVec.extractLsb'_append_extractLsb'_eq_extractLsb' rfl).trans BitVec.extractLsb'_eq_self

@[simp] theorem nibbleAt_disp_high (b c d : Nibble) : nibbleAt (b ++ c ++ d) 8 = b :=
  (nibbleAt_above (b ++ c) d 4).trans (nibbleAt_byte_high b c)

@[simp] theorem nibbleAt_disp_middle (b c d : Nibble) : nibbleAt (b ++ c ++ d) 4 = c :=
  (nibbleAt_above (b ++ c) d 0).trans (nibbleAt_low b c)

/-! ### Opcodes as nibbles and as bytes -/

/-- The decoder reads an opcode's nibbles back (R118). -/
theorem decodeWord_ofNibbles (a b c d : Nibble) : decodeWord (ofNibbles a b c d) = decodeNibbles a b c d := by
  have top : nibbleAt (a ++ b ++ c ++ d) 12 = a :=
    (nibbleAt_above (a ++ b ++ c) d 8).trans (nibbleAt_disp_high a b c)
  have second : nibbleAt (a ++ b ++ c ++ d) 8 = b :=
    (nibbleAt_above (a ++ b ++ c) d 4).trans (nibbleAt_disp_middle a b c)
  have third : nibbleAt (a ++ b ++ c ++ d) 4 = c :=
    (nibbleAt_above (a ++ b ++ c) d 0).trans (nibbleAt_low (a ++ b) c)
  rw [decodeWord, ofNibbles, top, second, third, nibbleAt_low]

theorem ofNibbles_nibbleAt (w : Half) :
    ofNibbles (nibbleAt w 12) (nibbleAt w 8) (nibbleAt w 4) (nibbleAt w 0) = w := by
  have upper : nibbleAt w 12 ++ nibbleAt w 8 ++ nibbleAt w 4 = w.extractLsb' 4 12 := by
    have byte : nibbleAt w 12 ++ nibbleAt w 8 = w.extractLsb' 8 8 :=
      BitVec.extractLsb'_append_extractLsb'_eq_extractLsb' rfl
    rw [byte]
    exact BitVec.extractLsb'_append_extractLsb'_eq_extractLsb' rfl
  rw [ofNibbles, upper]
  exact (BitVec.extractLsb'_append_extractLsb'_eq_extractLsb' rfl).trans BitVec.extractLsb'_eq_self

/-- `decode` reads the opcode that `opcodeBytes` stored, high byte first (R61, R110). -/
theorem decode_opcodeBytes_append (w : Half) (rest : List Byte) :
    decode (opcodeBytes w ++ rest) = (decodeWord w).elim (.illegalOpcode w rest) (.instr · rest) := by
  have joined : w.extractLsb' 8 8 ++ w.extractLsb' 0 8 = w :=
    (BitVec.extractLsb'_append_extractLsb'_eq_extractLsb' rfl).trans BitVec.extractLsb'_eq_self
  simp only [opcodeBytes, List.cons_append, List.nil_append, decode, joined]
  cases decodeWord w <;> rfl

/-! ### From the instruction to the opcode and back -/

/-- Each pattern of R120 leads the decoder, nibble by nibble, to its own row, and each field comes back whole. -/
theorem decodeWord_encode (i : Instr) : decodeWord (encode i) = some i := by
  cases i <;>
    simp [encode, decodeWord_ofNibbles, decodeNibbles, decodeGroup0, decodeGroup1, decodeGroup2, decodeGroup3, decodeGroup4,
      decodeGroup5, decodeGroup6, decodeGroup7, decodeGroup8, decodeGroup9, decodeGroupA, decodeGroupB, decodeGroupC,
      decodeGroupD, decodeGroupE]

/-! ### From the opcode to the instruction and back

In each group of R119 every branch of the decoder is one row of R120: the nibbles that chose the branch are the row's constant
ones, and the others are those the fields were read from. -/

section Groups
variable (b c d : Nibble)

theorem encode_of_mem_decodeGroup0 : ∀ i ∈ decodeGroup0 b c d, encode i = ofNibbles 0x0 b c d := by
  fun_cases decodeGroup0 b c d <;> rintro _ ⟨⟩ <;> simp [encode]

theorem encode_of_mem_decodeGroup2 : ∀ i ∈ decodeGroup2 b c d, encode i = ofNibbles 0x2 b c d := by
  fun_cases decodeGroup2 b c d <;> rintro _ ⟨⟩ <;> simp [encode]

theorem encode_of_mem_decodeGroup3 : ∀ i ∈ decodeGroup3 b c d, encode i = ofNibbles 0x3 b c d := by
  fun_cases decodeGroup3 b c d <;> rintro _ ⟨⟩ <;> simp [encode]

theorem encode_of_mem_decodeGroup4 : ∀ i ∈ decodeGroup4 b c d, encode i = ofNibbles 0x4 b c d := by
  fun_cases decodeGroup4 b c d <;> rintro _ ⟨⟩ <;> simp [encode]

theorem encode_of_mem_decodeGroup6 : ∀ i ∈ decodeGroup6 b c d, encode i = ofNibbles 0x6 b c d := by
  fun_cases decodeGroup6 b c d <;> rintro _ ⟨⟩ <;> simp [encode]

theorem encode_of_mem_decodeGroup8 : ∀ i ∈ decodeGroup8 b c d, encode i = ofNibbles 0x8 b c d := by
  fun_cases decodeGroup8 b c d <;> rintro _ ⟨⟩ <;> simp [encode]

theorem encode_of_mem_decodeGroupC : ∀ i ∈ decodeGroupC b c d, encode i = ofNibbles 0xC b c d := by
  fun_cases decodeGroupC b c d <;> rintro _ ⟨⟩ <;> simp [encode]

end Groups

/-- The groups of one row hold that instruction's fields and nothing else; the others go row by row. -/
theorem encode_of_mem_decodeNibbles (a b c d : Nibble) : ∀ i ∈ decodeNibbles a b c d, encode i = ofNibbles a b c d := by
  fun_cases decodeNibbles a b c d with
  | case1 => exact encode_of_mem_decodeGroup0 b c d
  | case3 => exact encode_of_mem_decodeGroup2 b c d
  | case4 => exact encode_of_mem_decodeGroup3 b c d
  | case5 => exact encode_of_mem_decodeGroup4 b c d
  | case7 => exact encode_of_mem_decodeGroup6 b c d
  | case9 => exact encode_of_mem_decodeGroup8 b c d
  | case13 => exact encode_of_mem_decodeGroupC b c d
  | case2 | case6 | case8 | case10 | case11 | case12 | case14 | case15 =>
    rintro _ ⟨⟩
    simp [encode]
  | case16 => rintro _ ⟨⟩

theorem encode_of_decodeWord {w : Half} {i : Instr} (h : decodeWord w = some i) : encode i = w :=
  (encode_of_mem_decodeNibbles _ _ _ _ i h).trans (ofNibbles_nibbleAt w)

/-- The decoder answers exactly the instruction whose encoding the opcode is. -/
theorem decodeWord_eq_some_iff {w : Half} {i : Instr} : decodeWord w = some i ↔ encode i = w :=
  ⟨encode_of_decodeWord, fun h => h ▸ decodeWord_encode i⟩

/-! ### The statements -/

/-- Settles O1: the opcode by the walk over the instructions, its bytes by joining them again. -/
theorem decodeInvertsEncode : Obligations.DecodeInvertsEncode := by
  intro i rest
  have word := decodeWord_encode i
  exact ⟨word, by simp [decode_opcodeBytes_append, word]⟩

/-- Settles O2: with decoder and encoder inverse, what the decoder answers decides which of the two an opcode is. -/
theorem opcodesDecodeUniquelyOrAreIllegal : Obligations.OpcodesDecodeUniquelyOrAreIllegal := by
  intro w
  cases answer : decodeWord w with
  | some i =>
    refine .inl ⟨i, rfl, encode_of_decodeWord answer, fun j hj => ?_⟩
    have also : decodeWord w = some j := decodeWord_eq_some_iff.mpr hj
    exact Option.some.inj (also.symm.trans answer)
  | none =>
    refine .inr ⟨rfl, fun j hj => ?_⟩
    have known : decodeWord w = some j := decodeWord_eq_some_iff.mpr hj
    exact absurd (answer.symm.trans known) nofun

/-- Settles O3: closed facts about fourteen opcodes, by evaluating the decoder. -/
theorem writtenOutOpcodesDecode : Obligations.WrittenOutOpcodesDecode := by
  unfold Obligations.WrittenOutOpcodesDecode
  decide

end Sys2Proof
end

section
/-! PROOFS. O9 to O14: the data transfer instructions (40_data_transfer R141 to R179). The frames of Sys2Proof/Safety.lean are
kept by a read, a write of memory, a register write and the end of an instruction; each shared operation of the meanings then
has one statement, which its instructions cite with their effective address. -/

namespace Sys2Proof.Machine

/-! ### What the frames are kept by -/

section Frames

variable {ns : List Reg} {bits : List Nat} {sz : Size} {ea v : Word} {s t : State} {n : Reg}

theorem SameRegsBut.setReg (h : SameRegsBut ns s t) (hn : n ∈ ns) (v : Word) : SameRegsBut ns s (t.setReg n v) := by
  intro k hk
  have other : k ≠ n := fun e => hk (e ▸ hn)
  rw [State.reg_setReg_ne t other, h k hk]

theorem SameCpu.sameRegsBut (h : SameCpu s t) : SameRegsBut ns s t := fun k _ => h.reg k

theorem SameCpu.sameSrBut (h : SameCpu s t) : SameSrBut bits s t := fun i _ => congrArg (·.getLsbD i) h.sr

theorem Frame.refl (ns : List Reg) (bits : List Nat) (s : State) : Frame ns bits s s :=
  ⟨fun _ _ => rfl, fun _ _ => rfl, fun _ => rfl, rfl⟩

/-- A read takes at most a draw (R13). -/
theorem Frame.of_memRead (h : memRead .core sz ea s = .ok (v, t)) : Frame ns bits s t := by
  have c := memRead_sameCpu h
  have e := memRead_frame h
  exact ⟨c.sameRegsBut, c.sameSrBut, fun a => by rw [e]; rfl, by rw [e]⟩

theorem Frame.setReg (h : Frame ns bits s t) (hn : n ∈ ns) (v : Word) : Frame ns bits s (t.setReg n v) := by
  obtain ⟨regs, sr, bytes, rest⟩ := h
  exact ⟨regs.setReg hn v, sr, bytes, congrArg (·.setReg n v) rest⟩

theorem Frame.advance (h : Frame ns bits s t) : Frame ns bits s t.advance := by
  obtain ⟨regs, sr, bytes, rest⟩ := h
  exact ⟨regs, sr, bytes, congrArg State.advance rest⟩

/-- A write changes its own bytes, their earlier values and the controller it reaches (R72, R98). -/
theorem StoreFrame.of_memWrite (h : memWrite .core sz ea v s = .ok t) : StoreFrame ns bits sz ea s t := by
  have c := memWrite_sameCpu h
  refine ⟨c.sameRegsBut, c.sameSrBut, memWrite_heldByte h, ?anywhere, fun apart => ?bytesOnly⟩
  case anywhere => rw [memWrite_sameCore h]
  case bytesOnly => rw [memWrite_bytesOnly h apart]

theorem StoreFrame.advance (h : StoreFrame ns bits sz ea s t) : StoreFrame ns bits sz ea s t.advance := by
  obtain ⟨regs, sr, bytes, anywhere, bytesOnly⟩ := h
  exact ⟨regs, sr, bytes, congrArg State.advance anywhere, fun apart => congrArg State.advance (bytesOnly apart)⟩

end Frames

/-! ### What the shared operations do -/

section Operations

variable {i : Instr} {sz : Size} {ea v : Word} {m n : Reg} {s : State}

theorem setsReg_of_writeReg (h : exec i s = writeReg n v s) : SetsReg i n v s :=
  ⟨(s.setReg n v).advance, h, s.reg_setReg_self n v, rfl,
    ((Frame.refl [n] [] s).setReg (List.mem_singleton_self n) v).advance, rfl⟩

theorem loadsReg_of_loadReg (h : exec i s = loadReg sz ea n s) : LoadsReg i sz ea n (extend sz) s := by
  refine ⟨fun v s1 read => ?answered, fun f fault => h.trans (loadThen_error fault _)⟩
  exact ⟨(s1.setReg n (extend sz v)).advance, h.trans (loadThen_ok read _), s1.reg_setReg_self n _,
    congrArg (· + 2) (memRead_sameCpu read).pc, rfl,
    ((Frame.of_memRead read).setReg (List.mem_singleton_self n) _).advance⟩

/-- The pointer after a post-increment load, before the destination is written (R154 to R156). -/
def State.stepPointer (s : State) (sz : Size) (m n : Reg) : State :=
  if n = m then s else s.setReg m (s.reg m + BitVec.ofNat 32 sz.bytes)

theorem loadRegInc_ok {s1 : State} (h : memRead .core sz (s.reg m) s = .ok (v, s1)) :
    loadRegInc sz m n s = writeReg n (extend sz v) (s1.stepPointer sz m n) := loadThen_ok h _

theorem State.stepPointer_reg (s : State) (sz : Size) (h : n ≠ m) :
    (s.stepPointer sz m n).reg m = s.reg m + BitVec.ofNat 32 sz.bytes := by
  rw [State.stepPointer, if_neg h, State.reg_setReg_self]

theorem State.stepPointer_pc (s : State) (sz : Size) (m n : Reg) : (s.stepPointer sz m n).pc = s.pc := by
  unfold State.stepPointer; split <;> rfl

theorem State.stepPointer_draws (s : State) (sz : Size) (m n : Reg) : (s.stepPointer sz m n).draws = s.draws := by
  unfold State.stepPointer; split <;> rfl

theorem Frame.stepPointer {ns : List Reg} {bits : List Nat} {t : State} (h : Frame ns bits s t) (hm : m ∈ ns) :
    Frame ns bits s (t.stepPointer sz m n) := by
  unfold State.stepPointer
  split
  · exact h
  · exact h.setReg hm _

theorem loadsRegStepping_of_loadRegInc (h : exec i s = loadRegInc sz m n s) :
    LoadsRegStepping i sz m n (extend sz) s := by
  refine ⟨fun v s1 read => ?answered, fun f fault => h.trans (loadThen_error fault _)⟩
  have c := memRead_sameCpu read
  have stepped : Frame [m, n] [] s (s1.stepPointer sz m n) := (Frame.of_memRead read).stepPointer (by simp)
  refine ⟨_, h.trans (loadRegInc_ok read), State.reg_setReg_self _ n _, fun apart => ?pointer,
    congrArg (· + 2) ((s1.stepPointer_pc sz m n).trans c.pc), s1.stepPointer_draws sz m n,
    (stepped.setReg (by simp) _).advance⟩
  case pointer =>
    rw [State.advance_reg, State.reg_setReg_ne _ apart.symm, s1.stepPointer_reg sz apart, c.reg]

/-- After a write of memory an instruction ends at the `pc` it began with, plus 2 (R25). -/
theorem advance_after_memWrite {s1 : State} (h : memWrite .core sz ea v s = .ok s1) :
    s1.advance = { s1 with pc := s.pc + 2 } := by
  rw [State.advance, (memWrite_sameCpu h).pc]

theorem stores_of_store (h : exec i s = store sz ea v s) : Stores i sz ea v s := by
  refine ⟨fun s1 written => ?answered, fun f fault => h.trans (storeThen_error fault _)⟩
  rw [← advance_after_memWrite written]
  exact ⟨h.trans (storeThen_ok written _), (StoreFrame.of_memWrite written).advance⟩

end Operations

/-! ### Effective addresses -/

/-- A displacement in bytes is not scaled (R115). -/
theorem eaDisp_byte (s : State) (x : Reg) (d : Nibble) : eaDisp s .byte x d = s.reg x + d.setWidth 32 :=
  congrArg (s.reg x + ·) (BitVec.mul_one _)

theorem eaGbr_byte (s : State) (d : Byte) : eaGbr s .byte d = s.gbr + d.setWidth 32 :=
  congrArg (s.gbr + ·) (BitVec.mul_one _)

section PcBase

variable {s : State} {target : Word}

theorem pcBaseThen_outside (h : s.delaySlot = none) (k : Word → Result) : pcBaseThen s k = k (s.pc + 4) := by
  unfold pcBaseThen; rw [h]

theorem pcBaseThen_targetBased (h : s.delaySlot = some target) (setting : s.params.pcrelInSlot = .targetBased)
    (k : Word → Result) : pcBaseThen s k = k (target + 2) := by
  unfold pcBaseThen; rw [h, setting]

theorem pcBaseThen_slotBased (h : s.delaySlot = some target) (setting : s.params.pcrelInSlot = .slotBased)
    (k : Word → Result) : pcBaseThen s k = k (s.pc + 4) := by
  unfold pcBaseThen; rw [h, setting]

theorem pcBaseThen_refuse (h : s.delaySlot = some target) (setting : s.params.pcrelInSlot = .refuse)
    (k : Word → Result) : pcBaseThen s k = .refused (.pcRelInSlot s.pc) := by
  unfold pcBaseThen; rw [h, setting]

end PcBase

/-! ### Halves and bytes of a register -/

/-- Two halves joined, by shifts (R178, R179). -/
theorem append_halves (v w : Word) :
    (v.extractLsb' 0 16 ++ w.extractLsb' 16 16 : Word) = (v <<< 16) ||| (w >>> 16) := by
  ext k hk
  rw [BitVec.getElem_append]
  grind

/-- The two low bytes exchanged, by masks and shifts (R177). -/
theorem append_swapped_bytes (v : Word) :
    (v.extractLsb' 16 16 ++ (v.extractLsb' 0 8 ++ v.extractLsb' 8 8 : Half) : Word) =
      (v &&& 0xFFFF0000#32) ||| ((v &&& 0xFF#32) <<< 8) ||| ((v >>> 8) &&& 0xFF#32) := by
  have high : ∀ k < 32, (0xFFFF0000#32).getLsbD k = decide (16 ≤ k) := by decide
  have low : ∀ k < 32, (0xFF#32).getLsbD k = decide (k < 8) := by decide
  ext k hk
  grind

/-! ### The statements -/

/-- Settles O9: each is one register write; the two swaps and `XTRCT` by the halves and bytes they join. -/
theorem registerMovesWriteTheirResult : Obligations.RegisterMovesWriteTheirResult := by
  intro s m n imm
  refine ⟨setsReg_of_writeReg rfl, setsReg_of_writeReg rfl, setsReg_of_writeReg rfl, ?swapB, ?swapW, ?xtrct⟩
  case swapB => exact setsReg_of_writeReg (congrArg (writeReg n · s) (append_swapped_bytes (s.reg m)))
  case swapW => exact setsReg_of_writeReg (congrArg (writeReg n · s) (append_halves (s.reg m) (s.reg m)))
  case xtrct => exact setsReg_of_writeReg (congrArg (writeReg n · s) (append_halves (s.reg m) (s.reg n)))

/-- Settles O10: with a base the three forms are a load or a register write at it, without one they are refused. -/
theorem pcRelativeFormsUseTheirBase : Obligations.PcRelativeFormsUseTheirBase := by
  intro s n d
  refine ⟨fun base h => ?based, fun target slot setting => ?refused⟩
  case based =>
    have based : ∀ k, pcBaseThen s k = k base := by
      rcases h with ⟨outside, rfl⟩ | ⟨target, slot, setting, rfl⟩ | ⟨target, slot, setting, rfl⟩
      · exact pcBaseThen_outside outside
      · exact pcBaseThen_targetBased slot setting
      · exact pcBaseThen_slotBased slot setting
    exact ⟨loadsReg_of_loadReg (based fun b => loadReg .word (eaPcWord b d) n s),
      loadsReg_of_loadReg (based fun b => loadReg .long (eaPcLong b d) n s),
      setsReg_of_writeReg (based fun b => writeReg 0 (eaPcLong b d) s)⟩
  case refused =>
    have refused := pcBaseThen_refuse slot setting
    exact ⟨refused fun b => loadReg .word (eaPcWord b d) n s, refused fun b => loadReg .long (eaPcLong b d) n s,
      refused fun b => writeReg 0 (eaPcLong b d) s⟩

/-- Settles O11: each is one load at the address of its mode. -/
theorem loadsReadAtTheirEffectiveAddress : Obligations.LoadsReadAtTheirEffectiveAddress := by
  intro s m n d4 d8
  refine ⟨loadsReg_of_loadReg rfl, loadsReg_of_loadReg rfl, loadsReg_of_loadReg rfl, ?byteDisp,
    loadsReg_of_loadReg rfl, loadsReg_of_loadReg rfl, loadsReg_of_loadReg rfl, loadsReg_of_loadReg rfl,
    loadsReg_of_loadReg rfl, ?byteGbr, loadsReg_of_loadReg rfl, loadsReg_of_loadReg rfl⟩
  case byteDisp => exact loadsReg_of_loadReg (congrArg (loadReg .byte · 0 s) (eaDisp_byte s m d4))
  case byteGbr => exact loadsReg_of_loadReg (congrArg (loadReg .byte · 0 s) (eaGbr_byte s d8))

/-- Settles O12: each is one load through a pointer that is stepped. -/
theorem postIncrementLoadsStepTheirPointer : Obligations.PostIncrementLoadsStepTheirPointer := fun _ _ _ =>
  ⟨loadsRegStepping_of_loadRegInc rfl, loadsRegStepping_of_loadRegInc rfl, loadsRegStepping_of_loadRegInc rfl⟩

/-- Settles O13: each is one store at the address of its mode. -/
theorem storesWriteAtTheirEffectiveAddress : Obligations.StoresWriteAtTheirEffectiveAddress := by
  intro s m n d4 d8
  refine ⟨stores_of_store rfl, stores_of_store rfl, stores_of_store rfl, ?byteDisp, stores_of_store rfl,
    stores_of_store rfl, stores_of_store rfl, stores_of_store rfl, stores_of_store rfl, ?byteGbr, stores_of_store rfl,
    stores_of_store rfl⟩
  case byteDisp => exact stores_of_store (congrArg (store .byte · (s.reg 0) s) (eaDisp_byte s n d4))
  case byteGbr => exact stores_of_store (congrArg (store .byte · (s.reg 0) s) (eaGbr_byte s d8))

/-- Settles O14: each is one store below a pointer, of the source as it was. -/
theorem preDecrementStoresStepTheirPointer : Obligations.PreDecrementStoresStepTheirPointer := fun _ _ _ =>
  ⟨storesStepping_of_storeDec rfl, storesStepping_of_storeDec rfl, storesStepping_of_storeDec rfl,
    storesStepping_of_storeDec rfl, storesStepping_of_storeDec rfl, storesStepping_of_storeDec rfl,
    storesStepping_of_storeDec rfl, storesStepping_of_storeDec rfl, storesStepping_of_storeDec rfl⟩

end Sys2Proof.Machine
end

section
/-! PROOFS. O15 to O20: the arithmetic instructions (41_arithmetic R201 to R233). A result with a flag is one write of a register
and one of `T`; what its two parts are is said of exact integers. The two reads of a multiply-accumulate are one lemma, under
which the accumulators of `MAC.L` and `MAC.W` are told apart. -/

namespace Sys2Proof.Machine

/-! ### The flags and `MAC` after an instruction -/

@[simp] theorem State.setT_t (s : State) (b : Bool) : (s.setT b).t = b := withBit_getLsbD _ _ _ _
@[simp] theorem State.setQ_q (s : State) (b : Bool) : (s.setQ b).q = b := withBit_getLsbD _ _ _ _
@[simp] theorem State.setM_m (s : State) (b : Bool) : (s.setM b).m = b := withBit_getLsbD _ _ _ _
@[simp] theorem State.advance_t (s : State) : s.advance.t = s.t := rfl
@[simp] theorem State.advance_q (s : State) : s.advance.q = s.q := rfl
@[simp] theorem State.advance_m (s : State) : s.advance.m = s.m := rfl
@[simp] theorem State.advance_mac (s : State) : s.advance.mac = s.mac := rfl
@[simp] theorem State.setReg_m (s : State) (i : Reg) (v : Word) : (s.setReg i v).m = s.m := rfl

section Flags

variable {ns : List Reg} {bits : List Nat} {i : Instr} {n : Reg} {s t : State}

/-- A flag is a named bit of `SR` (R28). -/
theorem Frame.setSrBit (h : Frame ns bits s t) {k : Nat} (hk : k ∈ bits) (b : Bool) :
    Frame ns bits s { t with sr := withBit t.sr k b } := by
  obtain ⟨regs, sr, bytes, rest⟩ := h
  refine ⟨regs, fun j hj => ?other, bytes, congrArg (fun u => { u with sr := withBit t.sr k b }) rest⟩
  have apart : j ≠ k := fun e => hj (e ▸ hk)
  exact (withBit_getLsbD t.sr k j b).trans ((if_neg fun e => apart e.1).trans (sr j hj))

theorem setsT_of_writeT {c : Bool} {p : Prop} (h : exec i s = writeT c s) (hc : c = true ↔ p) : SetsT i p s :=
  ⟨(s.setT c).advance, h, by rw [State.advance_t, State.setT_t, hc], rfl,
    ((Frame.refl [] [0] s).setSrBit (List.mem_singleton_self 0) c).advance, rfl⟩

theorem setsRegT_of_writeRegT {r : Word × Bool} {v : Word} {p : Prop} (h : exec i s = writeRegT n r s) (hv : r.1 = v)
    (hp : r.2 = true ↔ p) : SetsRegT i n v p s :=
  ⟨((s.setReg n r.1).setT r.2).advance, h, (s.reg_setReg_self n _).trans hv, by rw [State.advance_t, State.setT_t, hp], rfl,
    (((Frame.refl [n] [0] s).setReg (List.mem_singleton_self n) _).setSrBit (List.mem_singleton_self 0) _).advance, rfl⟩

end Flags

/-! ### Sums, differences and products of exact integers -/

theorem boolWord_eq_ofNat (b : Bool) : boolWord b = BitVec.ofNat 32 b.toNat := by cases b <;> rfl

theorem ofInt_sub (w : Nat) (x y : Int) : BitVec.ofInt w (x - y) = BitVec.ofInt w x - BitVec.ofInt w y := by
  rw [Int.sub_eq_add_neg, BitVec.ofInt_add, BitVec.ofInt_neg, BitVec.sub_eq_add_neg]

theorem ofInt_toInt_add (a b : Word) : BitVec.ofInt 32 (a.toInt + b.toInt) = a + b := by
  rw [BitVec.ofInt_add, BitVec.ofInt_toInt, BitVec.ofInt_toInt]

theorem ofInt_toInt_sub (a b : Word) : BitVec.ofInt 32 (a.toInt - b.toInt) = a - b := by
  rw [ofInt_sub, BitVec.ofInt_toInt, BitVec.ofInt_toInt]

theorem ofNat_toNat_add (a b : Word) : BitVec.ofNat 32 (a.toNat + b.toNat) = a + b := by
  rw [BitVec.ofNat_add, BitVec.ofNat_toNat, BitVec.ofNat_toNat, BitVec.setWidth_eq, BitVec.setWidth_eq]

theorem ofNat_toNat_mul (a b : Word) : BitVec.ofNat 32 (a.toNat * b.toNat) = a * b := by
  rw [BitVec.ofNat_mul, BitVec.ofNat_toNat, BitVec.ofNat_toNat, BitVec.setWidth_eq, BitVec.setWidth_eq]

theorem addCarry_fst (a b : Word) (t : Bool) : (addCarry a b t).1 = a + b + boolWord t := by
  rw [addCarry, BitVec.ofNat_add, ofNat_toNat_add, boolWord_eq_ofNat]

/-- The borrow is of the whole difference, `T` with it (R232). -/
theorem subBorrow_fst (a b : Word) (t : Bool) : (subBorrow a b t).1 = a - b - boolWord t := by
  rw [subBorrow, ofInt_sub, ofInt_sub, BitVec.ofInt_natCast, BitVec.ofInt_natCast, BitVec.ofInt_natCast,
    BitVec.ofNat_toNat, BitVec.ofNat_toNat, BitVec.setWidth_eq, BitVec.setWidth_eq, boolWord_eq_ofNat]

theorem subBorrow_snd (a b : Word) (t : Bool) : (subBorrow a b t).2 = true ↔ a.toNat < b.toNat + t.toNat := by
  rw [subBorrow, decide_eq_true_iff]
  omega

/-- From 0 there is a borrow unless nothing is taken away (R230). -/
theorem subBorrow_zero_snd (b : Word) (t : Bool) : (subBorrow 0 b t).2 = true ↔ b ≠ 0 ∨ t = true := by
  have zero : b = 0 ↔ b.toNat = 0 := BitVec.toNat_inj (y := 0#32) |>.symm
  rw [subBorrow_snd, Ne, zero, ← Bool.toNat_eq_one]
  have empty : (0 : Word).toNat = 0 := rfl
  have bit := t.toNat_le
  omega

theorem sub_one_beq_zero (a : Word) : (a - 1 == 0) = true ↔ a = 1 := by
  rw [beq_iff_eq, sub_eq_zero]

/-- A sign-extended half of a register is the integer it holds (R227). -/
theorem sext16_toInt (v : Word) : (sext16 v).toInt = (v.setWidth 16).toInt :=
  BitVec.toInt_signExtend_of_le (by decide)

theorem zext16_toNat (v : Word) : (zext16 v).toNat = (v.setWidth 16).toNat :=
  BitVec.toNat_setWidth_of_le (by decide)

theorem zext16_eq_and (v : Word) : zext16 v = v &&& 0xFFFF := by
  have low : ∀ k < 32, (0xFFFF#32).getLsbD k = decide (k < 16) := by decide
  unfold zext16
  ext k hk
  grind

/-! ### Comparisons -/

/-- An immediate is compared as the integer it holds (R205). -/
theorem beq_immSigned (a : Word) (imm : Byte) : (a == immSigned imm) = true ↔ a.toInt = imm.toInt := by
  rw [beq_iff_eq, ← BitVec.toInt_inj, immSigned, BitVec.toInt_signExtend_of_le (by decide)]

/-- One of the four byte lanes is equal (R213). -/
theorem anyByteEqual_iff (a b : Word) :
    anyByteEqual a b = true ↔ ∃ k : Nat, k < 4 ∧ a.extractLsb' (8 * k) 8 = b.extractLsb' (8 * k) 8 := by
  have lane (lo : Nat) : ((a ^^^ b).extractLsb' lo 8 == 0) = true ↔ a.extractLsb' lo 8 = b.extractLsb' lo 8 := by
    rw [beq_iff_eq, BitVec.extractLsb'_xor]; exact BitVec.xor_eq_zero_iff
  simp only [anyByteEqual, Bool.or_eq_true, lane]
  constructor
  · rintro (((h | h) | h) | h)
    exacts [⟨3, by decide, h⟩, ⟨2, by decide, h⟩, ⟨1, by decide, h⟩, ⟨0, by decide, h⟩]
  · rintro ⟨k, hk, h⟩
    interval_cases k
    exacts [.inr h, .inl (.inr h), .inl (.inl (.inr h)), .inl (.inl (.inl h))]

/-- The sign of a register is its bit 31 (R215). -/
theorem getLsbD_31_iff (v : Word) : v.getLsbD 31 = true ↔ v.toInt < 0 := by
  have sign : v.getLsbD 31 = v.msb := v.msb_eq_getLsbD_last.symm
  rw [sign, BitVec.msb_eq_toInt, decide_eq_true_iff]

/-! ### The statements on general registers and flags -/

/-- Settles O15: each is one register write, of the exact result cut to 32 bits. -/
theorem addSubtractNegateExtend : Obligations.AddSubtractNegateExtend := by
  intro s m n imm
  have writes {i : Instr} {v w : Word} (h : exec i s = writeReg n v s) (hv : v = w) : SetsReg i n w s :=
    setsReg_of_writeReg (hv ▸ h)
  refine ⟨writes rfl (ofNat_toNat_add _ _).symm, writes rfl ?immediate, writes rfl (ofInt_toInt_sub _ _).symm,
    writes rfl ?negated, writes rfl rfl, writes rfl rfl, writes rfl (setWidth_byte _), writes rfl (zext16_eq_and _)⟩
  case immediate => rw [BitVec.ofInt_add, BitVec.ofInt_toInt]; rfl
  case negated => rw [BitVec.ofInt_neg, BitVec.ofInt_toInt]; exact BitVec.zero_sub _

/-- Settles O16: each is one write of a register and of `T`, both from the exact result. -/
theorem carryBorrowAndOverflowSetT : Obligations.CarryBorrowAndOverflowSetT := fun _ _ _ =>
  ⟨setsRegT_of_writeRegT rfl (addCarry_fst _ _ _) decide_eq_true_iff,
    setsRegT_of_writeRegT rfl (ofInt_toInt_add _ _) decide_eq_true_iff,
    setsRegT_of_writeRegT rfl (subBorrow_fst _ _ _) (subBorrow_snd _ _ _),
    setsRegT_of_writeRegT rfl (ofInt_toInt_sub _ _) decide_eq_true_iff,
    setsRegT_of_writeRegT rfl (subBorrow_fst _ _ _) (subBorrow_zero_snd _ _),
    setsRegT_of_writeRegT rfl rfl (sub_one_beq_zero _)⟩

/-- Settles O17: each is one write of `T`, of its condition decided. -/
theorem comparisonsSetTOnly : Obligations.ComparisonsSetTOnly := fun _ _ _ _ =>
  ⟨setsT_of_writeT rfl (beq_immSigned _ _), setsT_of_writeT rfl beq_iff_eq, setsT_of_writeT rfl decide_eq_true_iff,
    setsT_of_writeT rfl decide_eq_true_iff, setsT_of_writeT rfl decide_eq_true_iff, setsT_of_writeT rfl decide_eq_true_iff,
    setsT_of_writeT rfl decide_eq_true_iff, setsT_of_writeT rfl decide_eq_true_iff,
    setsT_of_writeT rfl (anyByteEqual_iff _ _), setsT_of_writeT rfl beq_iff_eq, setsT_of_writeT rfl beq_iff_eq⟩

/-- Settles O18: the three flags are written one after another, and each is read back as it was written. -/
theorem divisionStepsUpdateQMT : Obligations.DivisionStepsUpdateQMT := by
  intro s m n
  refine ⟨⟨_, rfl, rfl, ?frame1, ?result, ?q, ?t⟩, ⟨_, rfl, rfl, ?frame0s, ?q0s, ?m0s, ?t0s⟩,
    ⟨_, rfl, rfl, ?frame0u, ?q0u, ?m0u, ?t0u⟩⟩
  case frame1 =>
    exact ⟨((((Frame.refl [n] [0, 8] s).setReg (by simp) _).setSrBit (by simp) _).setSrBit (by simp) _).advance, rfl⟩
  case frame0s | frame0u =>
    exact ⟨((((Frame.refl [] [0, 8, 9] s).setSrBit (by simp) _).setSrBit (by simp) _).setSrBit (by simp) _).advance, rfl⟩
  case result => exact s.reg_setReg_self n _
  case q => simp [divStep]
  case t => simp [divStep]
  case q0s | m0s => simpa using getLsbD_31_iff _
  case t0s => simp
  case q0u | m0u | t0u => simp

/-! ### Multiplications -/

section Multiply

variable {i : Instr} {s : State}

@[simp] theorem State.setMac_mac (s : State) (v : BitVec 64) : (s.setMac v).mac = v :=
  (BitVec.extractLsb'_append_extractLsb'_eq_extractLsb' rfl).trans BitVec.extractLsb'_eq_self

theorem becomes_of_setMac {v : BitVec 64} (h : exec i s = done (s.setMac v)) :
    ∃ t, Becomes i s t ∧ t.mac = v ∧ t = { s with mach := t.mach, macl := t.macl, pc := s.pc + 2 } :=
  ⟨(s.setMac v).advance, ⟨h, fun _ => rfl⟩, s.setMac_mac v, rfl⟩

theorem becomes_of_macl {v w : Word} (h : exec i s = done { s with macl := v }) (hv : v = w) :
    Becomes i s { s with macl := w, pc := s.pc + 2 } := hv ▸ ⟨h, fun _ => rfl⟩

end Multiply

/-- Settles O19: each is one write of `MAC` or of `MACL`, of the exact product. -/
theorem multiplicationsWriteMac : Obligations.MultiplicationsWriteMac := by
  intro s m n
  refine ⟨becomes_of_setMac rfl, becomes_of_setMac rfl, becomes_of_macl rfl (ofNat_toNat_mul _ _).symm,
    becomes_of_macl rfl ?signed, becomes_of_macl rfl ?unsigned⟩
  case signed => rw [sext16_toInt, sext16_toInt]
  case unsigned => rw [← zext16_toNat, ← zext16_toNat, ofNat_toNat_mul]

/-! ### The accumulators -/

theorem accumulateLong_mac {s : State} {p : Int} {r : BitVec 64} (h : macLong s.mac p s.sBit = some r) :
    (accumulateLong p s).mac = r := by
  rw [accumulateLong, h]
  exact s.setMac_mac r

/-- `MAC.L` with `S` clear (R224). -/
theorem accumulateLong_wraps {s : State} (clear : s.sBit = false) (p : Int) :
    (accumulateLong p s).mac = BitVec.ofInt 64 (s.mac.toInt + p) :=
  accumulateLong_mac (if_pos clear)

/-- `MAC.L` with `S` set, from an accumulator inside 48 bits (R224). -/
theorem accumulateLong_clamps {s : State} (set : s.sBit = true) (lo : -2 ^ 47 ≤ s.mac.toInt)
    (hi : s.mac.toInt ≤ 2 ^ 47 - 1) (p : Int) :
    (accumulateLong p s).mac.toInt = max (-2 ^ 47) (min (s.mac.toInt + p) (2 ^ 47 - 1)) := by
  have clamped : macLong s.mac p s.sBit = some (BitVec.ofInt 64 (clamp48 (s.mac.toInt + p))) := by
    rw [macLong, set, if_neg (by decide), if_neg (by omega)]
  rw [accumulateLong_mac clamped]
  exact BitVec.toInt_ofInt_eq_self (by decide) (by rw [clamp48]; omega) (by rw [clamp48]; omega)

/-- What `MAC.L` accumulates into: `MACH` and `MACL`; where the result is drawn, a draw is taken (R224). -/
theorem accumulateLong_frame (p : Int) (s : State) :
    accumulateLong p s = { s with
      mach := (accumulateLong p s).mach, macl := (accumulateLong p s).macl, draws := (accumulateLong p s).draws } := by
  unfold accumulateLong
  split <;> rfl

/-- The clamp of `MAC.W`: above, below and inside the range of `MACL` (R225). -/
theorem macWord_clamps (mach macl : Word) (p : Int) :
    (macWord mach macl p true).2.toInt = max (-2 ^ 31) (min (macl.toInt + p) (2 ^ 31 - 1)) ∧
    (macWord mach macl p true).1 =
      if -2 ^ 31 ≤ macl.toInt + p ∧ macl.toInt + p ≤ 2 ^ 31 - 1 then mach else mach ||| 1 := by
  have top : (0x7FFFFFFF : Word).toInt = 2 ^ 31 - 1 := by decide
  have bottom : (0x80000000 : Word).toInt = -2 ^ 31 := by decide
  have saturating : macWord mach macl p true =
      if 2 ^ 31 - 1 < macl.toInt + p then (mach ||| 1, 0x7FFFFFFF)
      else if macl.toInt + p < -2 ^ 31 then (mach ||| 1, 0x80000000)
      else (mach, BitVec.ofInt 32 (macl.toInt + p)) := if_neg (by decide)
  rw [saturating]
  by_cases above : 2 ^ 31 - 1 < macl.toInt + p
  · rw [if_pos above, if_neg (by omega)]
    exact ⟨top.trans (by omega), rfl⟩
  by_cases below : macl.toInt + p < -2 ^ 31
  · rw [if_neg above, if_pos below, if_neg (by omega)]
    exact ⟨bottom.trans (by omega), rfl⟩
  · rw [if_neg above, if_neg below, if_pos (by omega)]
    have inside : (BitVec.ofInt 32 (macl.toInt + p)).toInt = macl.toInt + p :=
      BitVec.toInt_ofInt_eq_self (by decide) (by omega) (by omega)
    exact ⟨inside.trans (by omega), rfl⟩

/-- What `MAC.W` does with its product (R225). -/
def accumulateWord (p : Int) (s : State) : State :=
  { s with mach := (macWord s.mach s.macl p s.sBit).1, macl := (macWord s.mach s.macl p s.sBit).2 }

/-- `MAC.W` with `S` clear (R225). -/
theorem accumulateWord_wraps {s : State} (clear : s.sBit = false) (p : Int) :
    (accumulateWord p s).mac = BitVec.ofInt 64 (s.mac.toInt + p) := by
  rw [accumulateWord, clear]
  exact State.setMac_mac s _

/-- `MAC.W` with `S` set (R225). -/
theorem accumulateWord_clamps {s : State} (set : s.sBit = true) (p : Int) :
    (accumulateWord p s).macl.toInt = max (-2 ^ 31) (min (s.macl.toInt + p) (2 ^ 31 - 1)) ∧
    (accumulateWord p s).mach =
      if -2 ^ 31 ≤ s.macl.toInt + p ∧ s.macl.toInt + p ≤ 2 ^ 31 - 1 then s.mach else s.mach ||| 1 := by
  rw [accumulateWord, set]
  exact macWord_clamps s.mach s.macl p

theorem exec_macL (m n : Reg) (s : State) :
    exec (.macL m n) s = macOperands .long m n s fun a b s' => done (accumulateLong (a.toInt * b.toInt) s') := rfl

theorem exec_macW (m n : Reg) (s : State) :
    exec (.macW m n) s = macOperands .word m n s fun a b s' =>
      done (accumulateWord ((a.setWidth 16).toInt * (b.setWidth 16).toInt) s') := by
  simp only [← sext16_toInt]
  rfl

/-! ### The two reads of a multiply-accumulate -/

section MacOperands

variable {sz : Size} {m n : Reg} {a b step v w : Word} {s s1 s2 s3 t u : State}

theorem SameCpu.mac (h : SameCpu s t) : t.mac = s.mac := by rw [State.mac, State.mac, h.mach, h.macl]

theorem SameCpu.sBit (h : SameCpu s t) : t.sBit = s.sBit := by rw [State.sBit, State.sBit, h.sr]

/-- Where both reads are answered, the product is accumulated in a state with both registers stepped that is otherwise as the
moves between the reads leave it (R94, R224, R225). -/
theorem macOperands_ok (hstep : BitVec.ofNat 32 sz.bytes = step) (read1 : memRead .core sz (s.reg n) s = .ok (a, s1))
    (moved : interpose (s1.setReg n (s.reg n + step)) = .next s2)
    (read2 : memRead .core sz ((s.setReg n (s.reg n + step)).reg m) s2 = .ok (b, s3)) :
    ∃ u, (∀ k, macOperands sz m n s k = k a b u) ∧
      SameCpu ((s.setReg n (s.reg n + step)).setReg m ((s.setReg n (s.reg n + step)).reg m + step)) u ∧
      u = { s2 with regs := u.regs, draws := u.draws } := by
  have c2 := memRead_setReg_sameCpu read1 moved
  have c3 := c2.trans (memRead_sameCpu read2)
  refine ⟨s3.setReg m ((s.setReg n (s.reg n + step)).reg m + step), fun k => ?answer, c3.setReg m _, ?rest⟩
  case answer =>
    rw [macOperands, loadThen_ok read1, (memRead_sameCpu read1).reg, hstep, moved]
    rw [← c2.reg m] at read2
    refine (loadThen_ok read2 _).trans ?_
    rw [c3.reg]
  case rest => rw [memRead_frame read2]; rfl

/-- What an accumulation into `MAC` leaves after the two reads. -/
theorem accumulated_frame (c : SameCpu ((s.setReg n w).setReg m v) u) (rest : u = { s2 with regs := u.regs, draws := u.draws })
    (acc : t = { u with mach := t.mach, macl := t.macl, draws := t.draws }) :
    t.advance.pc = s.pc + 2 ∧ SameBytes s2 t.advance ∧ SameRegsBut [m, n] s t.advance ∧
      t.advance = { s2 with
        regs := t.advance.regs, mach := t.advance.mach, macl := t.advance.macl, pc := t.advance.pc
        draws := t.advance.draws } ∧
      t.advance.reg m = v ∧ (n ≠ m → t.advance.reg n = w) := by
  have reg (k : Reg) : t.advance.reg k = ((s.setReg n w).setReg m v).reg k := (congrArg (·.reg k) acc).trans (c.reg k)
  refine ⟨?pc, ?bytes, ?regs, ?frame, ?pointerM, fun apart => ?pointerN⟩
  case pc => exact (congrArg (·.pc + 2) acc).trans (congrArg (· + 2) c.pc)
  case bytes =>
    intro k
    rw [State.advance_heldByte, acc, rest]
    rfl
  case regs =>
    intro k hk
    obtain ⟨hm, hn⟩ : k ≠ m ∧ k ≠ n := by simpa using hk
    rw [reg, State.reg_setReg_ne _ hm, State.reg_setReg_ne _ hn]
  case frame => rw [acc, rest]; rfl
  case pointerM => rw [reg, State.reg_setReg_self]
  case pointerN => rw [reg, State.reg_setReg_ne _ apart, State.reg_setReg_self]

end MacOperands

/-- Settles O20: both forms read and step alike; with `S` clear and set they accumulate by the lemmas of their accumulator,
which the reads and the moves between them leave as it was. -/
theorem multiplyAccumulateAddsAndSaturates : Obligations.MultiplyAccumulateAddsAndSaturates := by
  intro s s1 s2 s3 m n a b
  refine ⟨fun read1 moved read2 => ?long, fun read1 moved read2 => ?word⟩
  case long =>
    obtain ⟨u, answer, c, rest⟩ := macOperands_ok rfl read1 moved read2
    have mac : u.mac = s.mac := c.mac
    obtain ⟨pc, bytes, regs, frame, pointerM, pointerN⟩ :=
      accumulated_frame c rest (accumulateLong_frame (a.toInt * b.toInt) u)
    refine ⟨_, (exec_macL m n s).trans (answer _), pc, bytes, regs, frame, pointerM, pointerN, fun clear => ?wraps,
      fun set lo hi => ?clamps⟩
    case wraps => rw [State.advance_mac, accumulateLong_wraps (c.sBit.trans clear), mac]
    case clamps =>
      rw [← mac] at lo hi
      rw [State.advance_mac, accumulateLong_clamps (c.sBit.trans set) lo hi, mac]
  case word =>
    obtain ⟨u, answer, c, rest⟩ := macOperands_ok rfl read1 moved read2
    have mac : u.mac = s.mac := c.mac
    have mach : u.mach = s.mach := c.mach
    have macl : u.macl = s.macl := c.macl
    obtain ⟨pc, bytes, regs, frame, pointerM, pointerN⟩ := accumulated_frame
      (t := accumulateWord ((a.setWidth 16).toInt * (b.setWidth 16).toInt) u) c rest rfl
    refine ⟨_, (exec_macW m n s).trans (answer _), pc, bytes, regs, frame, pointerM, pointerN, fun clear => ?wraps,
      fun set => ?clamps⟩
    case wraps => rw [State.advance_mac, accumulateWord_wraps (c.sBit.trans clear), mac]
    case clamps =>
      rw [← mach, ← macl]
      exact accumulateWord_clamps (c.sBit.trans set) _

end Sys2Proof.Machine
end

section
/-! PROOFS. O21 and O22: the logic instructions (42_logic R251 to R264). A result in a register is one register write. In
memory there are three shapes, each with one lemma over the frames of its accesses: the modified byte, the tested byte, `TAS.B`. -/

namespace Sys2Proof.Machine

/-! ### The frames under a read around the cache and under a flag -/

section ByteFrames

variable {ns : List Reg} {bits : List Nat} {sz : Size} {ea v : Word} {s s1 t : State}

/-- A read around the cache leaves what the frame of a later write starts from: it takes at most a draw (R13, R258). -/
theorem StoreFrame.after_memReadUncached (read : memReadUncached sz ea s = .ok (v, s1))
    (h : StoreFrame ns bits sz ea s1 t) : StoreFrame ns bits sz ea s t := by
  rw [memReadVia_frame read] at h
  exact h

/-- A flag is a named bit of `SR` (R28). -/
theorem StoreFrame.setSrBit (h : StoreFrame ns bits sz ea s t) {k : Nat} (hk : k ∈ bits) (b : Bool) :
    StoreFrame ns bits sz ea s { t with sr := withBit t.sr k b } := by
  obtain ⟨regs, sr, bytes, anywhere, bytesOnly⟩ := h
  obtain ⟨-, flag, -, -⟩ := (Frame.refl ns bits t).setSrBit hk b
  exact ⟨regs, fun j hj => (flag j hj).trans (sr j hj), bytes,
    congrArg (fun u => { u with sr := withBit t.sr k b }) anywhere,
    fun apart => congrArg (fun u => { u with sr := withBit t.sr k b }) (bytesOnly apart)⟩

end ByteFrames

/-! ### What the byte operations do -/

section ByteOperations

variable {i : Instr} {sz : Size} {ea b v : Word} {s s1 s2 s3 t : State}

/-- Where the read and the write of a byte operation are answered, it ends in the state of the write, over what the moves in
between left (R68, R250). -/
theorem modifyByte_next {f : Word → Word} (h : exec i s = modifyByte ea f s)
    (read : memRead .core .byte ea s = .ok (b, s1)) (moved : interpose s1 = .next s2)
    (written : memWrite .core .byte ea (f b) s2 = .ok t) :
    exec i s = .next { t with pc := s.pc + 2 } ∧ StoreFrame [] [] .byte ea s2 { t with pc := s.pc + 2 } := by
  have pc : s2.pc = s.pc := ((memRead_sameCpu read).trans (interpose_sameCpu moved)).pc
  have ended : exec i s = done t := by
    rw [h, modifyByte, loadThen_ok read, moved]
    exact storeThen_ok written done
  rw [← pc, ← advance_after_memWrite written]
  exact ⟨ended, (StoreFrame.of_memWrite written).advance⟩

/-- A read whose value decides `T` changes nothing else. -/
theorem loadThen_writeT {c : Word → Bool} {p : Prop} (h : exec i s = loadThen sz ea s fun v s' => writeT (c v) s')
    (read : memRead .core sz ea s = .ok (b, s1)) (hc : c b = true ↔ p) :
    ∃ t, exec i s = .next t ∧ (t.t = true ↔ p) ∧ t.pc = s.pc + 2 ∧ Frame [] [0] s t :=
  ⟨(s1.setT (c b)).advance, h.trans (loadThen_ok read _), by rw [State.advance_t, State.setT_t, hc],
    congrArg (· + 2) (memRead_sameCpu read).pc,
    ((Frame.of_memRead read).setSrBit (List.mem_singleton_self 0) (c b)).advance⟩

/-- `TAS.B` writes in the state its read left: nothing falls between the two (R68, R97, R258). -/
theorem exec_tasB_next {n : Reg} (read : memReadUncached .byte (s.reg n) s = .ok (b, s1))
    (written : memWrite .core .byte (s.reg n) (b ||| 0x80) s1 = .ok s3) :
    exec (.tasB n) s = .next (s3.setT (b == 0)).advance :=
  (loadUncachedThen_ok read _).trans (storeThen_ok written _)

end ByteOperations

/-! ### The statements -/

/-- Settles O21: each is one register write; the complement is the exclusive or with all ones. -/
theorem logicResultsInRegisters : Obligations.LogicResultsInRegisters := by
  intro s m n imm
  refine ⟨setsReg_of_writeReg rfl, setsReg_of_writeReg rfl, setsReg_of_writeReg rfl, setsReg_of_writeReg rfl,
    setsReg_of_writeReg rfl, setsReg_of_writeReg rfl, setsReg_of_writeReg ?complement⟩
  case complement => exact congrArg (writeReg n · s) (BitVec.xor_allOnes (x := s.reg m)).symm

/-- Settles O22: three forms modify a byte, `TST.B` only reads it, and `TAS.B` keeps the frame of its write through the read
before it and the flag after it. -/
theorem memoryByteLogicReadsThenWrites : Obligations.MemoryByteLogicReadsThenWrites := by
  intro s s1 s2 n imm b
  refine ⟨fun read => ⟨fun moved => ⟨fun t => ?and, fun t => ?or, fun t => ?xor⟩, ?test⟩,
    fun read s3 written => ?testAndSet⟩
  case and => exact modifyByte_next (f := (· &&& imm.setWidth 32)) rfl read moved
  case or => exact modifyByte_next (f := (· ||| imm.setWidth 32)) rfl read moved
  case xor => exact modifyByte_next (f := (· ^^^ imm.setWidth 32)) rfl read moved
  case test => exact loadThen_writeT rfl read beq_iff_eq
  case testAndSet =>
    refine ⟨_, exec_tasB_next read written, ?t, ?pc, rfl, ?frame⟩
    case t => rw [State.advance_t, State.setT_t, beq_iff_eq]
    case pc => exact congrArg (· + 2) ((memReadVia_sameCpu read).trans (memWrite_sameCpu written)).pc
    case frame =>
      have stored : StoreFrame [] [0] .byte (s.reg n) s1 s3 := .of_memWrite written
      exact ((stored.after_memReadUncached read).setSrBit (List.mem_singleton_self 0) (b == 0)).advance

end Sys2Proof.Machine
end

section
/-! PROOFS. O23: the shifts and rotates (43_shift R271 to R284). Each is one write of a register, the one-bit forms with one of
`T`. A shift multiplies or divides the integer the register holds; a rotate brings one bit in at the end the shift has left
empty, so that the bit may be put there by `|||` or by a sum. -/

namespace Sys2Proof.Machine

/-! ### Shifts as multiplication and division -/

theorem shiftLeft_eq_ofNat_mul (a : Word) (k : Nat) : a <<< k = BitVec.ofNat 32 (a.toNat * 2 ^ k) := by
  rw [← BitVec.toNat_inj, BitVec.toNat_shiftLeft, BitVec.toNat_ofNat, Nat.shiftLeft_eq]

theorem ushiftRight_eq_ofNat_div (a : Word) (k : Nat) : a >>> k = BitVec.ofNat 32 (a.toNat / 2 ^ k) := by
  have small : a.toNat / 2 ^ k < 2 ^ 32 := (Nat.div_le_self _ _).trans_lt a.isLt
  rw [← BitVec.toNat_inj, BitVec.toNat_ushiftRight, BitVec.toNat_ofNat, Nat.shiftRight_eq_div_pow, Nat.mod_eq_of_lt small]

theorem shiftLeft_one_eq_add (a : Word) : a <<< 1 = a + a := by
  rw [shiftLeft_eq_ofNat_mul, ← ofNat_toNat_add, pow_one, mul_two]

/-- With bit 31 replicated, a shift to the right rounds down (R276). -/
theorem sshiftRight_one_eq_ofInt_div (a : Word) : a.sshiftRight 1 = BitVec.ofInt 32 (a.toInt / 2) := by
  rw [BitVec.sshiftRight_eq, Int.shiftRight_eq_div_pow]
  rfl

/-! ### The bit a rotate brings in -/

theorem boolWord_getElem (b : Bool) {k : Nat} (h : k < 32) : (boolWord b)[k] = (decide (k = 0) && b) := by
  cases b <;> simp [boolWord]

theorem boolWord_shiftLeft_31 (b : Bool) : boolWord b <<< 31 = if b then 0x80000000 else 0 := by cases b <;> rfl

theorem boolWord_getLsbD_31 (a : Word) : boolWord (a.getLsbD 31) = a >>> 31 := by
  ext k hk
  grind [boolWord_getElem]

theorem boolWord_getLsbD_0_shiftLeft_31 (a : Word) : boolWord (a.getLsbD 0) <<< 31 = a <<< 31 := by
  ext k hk
  grind [boolWord_getElem]

/-- Bit 0 is empty after a shift to the left. -/
theorem shiftLeft_one_or_boolWord (a : Word) (b : Bool) : (a <<< 1) ||| boolWord b = (a <<< 1) + boolWord b := by
  refine (BitVec.add_eq_or_of_and_eq_zero _ _ ?_).symm
  ext k hk
  grind [boolWord_getElem]

/-- Bit 31 is empty after a shift to the right. -/
theorem ushiftRight_one_or_boolWord (a : Word) (b : Bool) :
    (a >>> 1) ||| (boolWord b <<< 31) = (a >>> 1) + (boolWord b <<< 31) := by
  refine (BitVec.add_eq_or_of_and_eq_zero _ _ ?_).symm
  ext k hk
  grind

/-! ### The results of the rotates -/

theorem rotl_fst (a : Word) : (rotl a).1 = a.rotateLeft 1 := by
  rw [rotl, boolWord_getLsbD_31, BitVec.rotateLeft_def]

theorem rotr_fst (a : Word) : (rotr a).1 = a.rotateRight 1 := by
  rw [rotr, boolWord_getLsbD_0_shiftLeft_31, BitVec.rotateRight_def]

theorem rotcl_fst (a : Word) (t : Bool) : (rotcl a t).1 = (a <<< 1) + boolWord t :=
  shiftLeft_one_or_boolWord a t

theorem rotcr_fst (a : Word) (t : Bool) : (rotcr a t).1 = (a >>> 1) + (if t then 0x80000000 else 0) := by
  rw [rotcr, ushiftRight_one_or_boolWord, boolWord_shiftLeft_31]

/-! ### The statement -/

/-- Settles O23: the bit shifted out is the one the model writes to `T`; each result is its shift as a sum, a product or a
quotient, or its rotate. -/
theorem shiftsAndRotates : Obligations.ShiftsAndRotates := by
  intro s n
  refine ⟨?rotl, ?rotr, ?rotcl, ?rotcr, ?shal, ?shll, ?shar, ?shlr, ?shll2, ?shll8, ?shll16, ?shlr2, ?shlr8, ?shlr16⟩
  case rotl => exact setsRegT_of_writeRegT rfl (rotl_fst _) Iff.rfl
  case rotr => exact setsRegT_of_writeRegT rfl (rotr_fst _) Iff.rfl
  case rotcl => exact setsRegT_of_writeRegT rfl (rotcl_fst _ _) Iff.rfl
  case rotcr => exact setsRegT_of_writeRegT rfl (rotcr_fst _ _) Iff.rfl
  case shal | shll => exact setsRegT_of_writeRegT rfl (shiftLeft_one_eq_add _) Iff.rfl
  case shar => exact setsRegT_of_writeRegT rfl (sshiftRight_one_eq_ofInt_div _) Iff.rfl
  case shlr => exact setsRegT_of_writeRegT rfl (ushiftRight_eq_ofNat_div _ 1) Iff.rfl
  case shll2 | shll8 | shll16 => rw [← shiftLeft_eq_ofNat_mul]; exact setsReg_of_writeReg rfl
  case shlr2 | shlr8 | shlr16 => rw [← ushiftRight_eq_ofNat_div]; exact setsReg_of_writeReg rfl

end Sys2Proof.Machine
end

section
/-! PROOFS. O24, O7 and O5: the branches (44_branch R290 to R307). Outside a slot each is the guard of R293 around one jump or
one latched target; in a slot that guard is a fault, so whatever completes there leaves the latched target, which the step
then commits (R291). -/

namespace Sys2Proof.Machine

/-! ### Targets -/

/-- The displacement of a branch counts words and is signed; the sum wraps modulo 2^32 (R115, R26). -/
theorem ofInt_branchTarget {w : Nat} (pc : Word) (disp : BitVec w) :
    BitVec.ofInt 32 (pc.toNat + 4 + 2 * disp.toInt) = pc + 4 + disp.signExtend 32 * 2 := by
  rw [BitVec.ofInt_add, BitVec.ofInt_add, BitVec.ofInt_natCast, BitVec.ofNat_toNat, BitVec.setWidth_eq, BitVec.ofInt_mul,
    BitVec.mul_comm]
  rfl

/-! ### Branches outside a slot -/

section Outside

variable {i : Instr} {s : State} {target link next v : Word}

/-- A branch without a slot: its target where the condition holds, else the next instruction (R295, R297). -/
theorem becomes_of_jump {c : Prop} [Decidable c] (outside : s.delaySlot = none)
    (h : exec i s = outsideSlot s (if c then jump v s else done s)) (hn : (if c then v else s.pc + 2) = next) :
    Becomes i s { s with pc := next } := by
  refine ⟨?_, fun _ => rfl⟩
  rw [h, outsideSlot_none outside, ← hn]
  split <;> rfl

/-- A delayed branch: the link is written, the target latched (R291). -/
theorem delays_of_delayedBranch (outside : s.delaySlot = none)
    (h : exec i s = outsideSlot s (delayedBranch v { s with pr := link })) (hv : v = target) : Delays i target link s :=
  hv ▸ ⟨h.trans (outsideSlot_none outside _), fun _ => rfl⟩

end Outside

/-- A branch on a clear `T` is one on a set `T` with its two ways exchanged. -/
theorem ite_eq_false_swap {α : Type} (b : Bool) (x y : α) : (if b = false then x else y) = if b then y else x := by
  cases b <;> rfl

/-- Settles O24: each form is its jump or its latched target, behind the guard that is open outside a slot. -/
theorem branchesLatchTheirTarget : Obligations.BranchesLatchTheirTarget := by
  intro s m d8 d12 outside
  rw [ofInt_branchTarget s.pc d8, ofInt_branchTarget s.pc d12]
  refine ⟨?bt, ?bf, ?bts, ?bfs, ?bra, ?bsr, ?braf, ?bsrf, ?jmp, ?jsr, ?rts⟩
  case bt => exact becomes_of_jump outside rfl rfl
  case bf => exact becomes_of_jump outside rfl (ite_eq_false_swap _ _ _)
  case bfs => exact delays_of_delayedBranch outside rfl (ite_eq_false_swap _ _ _)
  case bts | bra | bsr | braf | bsrf | jmp | jsr | rts => exact delays_of_delayedBranch outside rfl rfl

/-! ### In a slot -/

/-- R293: the instructions that write `pc` are those behind the guard against a slot. -/
theorem exec_writesPc_inSlot {i : Instr} {s : State} {target : Word} (inSlot : s.delaySlot = some target)
    (hp : i.writesPc = true) : exec i s = .fault (.slotIllegal s.pc) := by
  cases i
  case bf | bfs | bt | bts | bra | braf | bsr | bsrf | jmp | jsr | rts | rte | trapa => exact outsideSlot_some inSlot _
  all_goals exact Bool.noConfusion hp

/-- Settles O7: the guard closes off each writer of `pc` and the entry for an illegal opcode alike. -/
theorem pcWritersAndIllegalOpcodesFaultInSlot : Obligations.PcWritersAndIllegalOpcodesFaultInSlot := by
  intro s target inSlot
  refine ⟨fun i hp => exec_writesPc_inSlot inSlot hp, fun op illegal => ?_⟩
  rw [execOpcode, illegal]
  exact outsideSlot_some inSlot _

/-- What completes in a slot leaves the latched target: a writer of `pc` would have stopped (R293). -/
theorem exec_inSlot_keeps_target {i : Instr} {s t : State} {target : Word} (inSlot : s.delaySlot = some target)
    (h : exec i s = .next t) : t.delaySlot = some target := by
  cases hp : i.writesPc with
  | false =>
    obtain ⟨-, kept⟩ := otherInstructionsAdvancePcByTwo i s t hp h
    exact kept.trans inSlot
  | true =>
    rw [exec_writesPc_inSlot inSlot hp] at h
    cases h

/-! ### A delayed branch and its slot -/

/-- What a delayed branch leaves of `s`, before its slot: `pc` is the slot's address and a target is latched (R291). -/
def LatchedFrom (s b : State) : Prop := b.pc = s.pc + 2 ∧ ∃ target, b.delaySlot = some target

theorem keeps_latchedFrom {s u : State} (pc : u.pc = s.pc) (target : Word) :
    Keeps (LatchedFrom s) (delayedBranch target u) := keeps_next ⟨congrArg (· + 2) pc, target, rfl⟩

/-- The pops of `RTE` leave `pc`, then the saved one is latched (R345). -/
theorem returnFromException_latches (s : State) : Keeps (LatchedFrom s) (returnFromException s) := by
  intro b h
  obtain ⟨target, s1, s2, v, s3, read1, moved, read2, rfl⟩ := returnFromException_next h
  have c := (memRead_setReg_sameCpu read1 moved).trans (memRead_sameCpu read2)
  exact ⟨congrArg (· + 2) c.pc, target, rfl⟩

theorem exec_delayedBranch_latches {i : Instr} (delayed : i.isDelayedBranch = true) (s : State) :
    Keeps (LatchedFrom s) (exec i s) := by
  cases i
  case bfs | bts | bra | braf | bsr | bsrf | jmp | jsr | rts => exact keeps_outsideSlot (keeps_latchedFrom rfl _)
  case rte => exact keeps_outsideSlot (returnFromException_latches s)
  all_goals exact Bool.noConfusion delayed

/-- Where the fetch and the moves after it are answered, an instruction is what its opcode decodes to (R24, R94). -/
theorem runOne_decoded {s s1 s2 : State} {op : Word} {i : Instr} (fetched : memRead .core .word s.pc s = .ok (op, s1))
    (moved : interpose s1 = .next s2) (decoded : decodeWord (op.setWidth 16) = some i) : runOne s = exec i s2 := by
  rw [runOne_fetched fetched, moved]
  show execOpcode (op.setWidth 16) s2 = exec i s2
  rw [execOpcode, decoded]

theorem commitBranch_latched {t : State} {target : Word} (h : t.delaySlot = some target) :
    t.commitBranch = { t with pc := target, delaySlot := none } := by
  rw [State.commitBranch, h]

/-- The slot of a latched branch: its instruction, then `pc` at the target (R291). -/
theorem runSlot_decoded {s s1 s2 t : State} {op target : Word} {i : Instr} (inSlot : s.delaySlot = some target)
    (fetched : memRead .core .word s.pc s = .ok (op, s1)) (moved : interpose s1 = .next s2)
    (decoded : decodeWord (op.setWidth 16) = some i) (executed : exec i s2 = .next t) :
    runSlot s = .next { t with pc := target, delaySlot := none } := by
  have c : SameCpu s s2 := (memRead_sameCpu fetched).trans (interpose_sameCpu moved)
  have kept := exec_inSlot_keeps_target (c.delaySlot.trans inSlot) executed
  rw [runSlot, runOne_decoded fetched moved decoded, executed, ← commitBranch_latched kept]
  rfl

/-- Settles O5: the branch latches its target, which the moves before the slot and the slot's instruction keep. -/
theorem delayedBranchRunsItsSlot : Obligations.DelayedBranchRunsItsSlot := by
  intro s s1 s2 b b1 b2 b3 t opB opX B X turn run outside fetchedB moved1 decodedB delayed executedB moved2 fetchedX moved3
    decodedX executedX
  have c : SameCpu s s2 := (memRead_sameCpu fetchedB).trans (interpose_sameCpu moved1)
  have cb : SameCpu b b1 := interpose_sameCpu moved2
  obtain ⟨latchedPc, target, latched⟩ := exec_delayedBranch_latches delayed s2 b executedB
  have slotAddress : b.pc = s.pc + 2 := by rw [latchedPc, c.pc]
  have slot := runSlot_decoded (cb.delaySlot.trans latched) fetchedX moved3 decodedX executedX
  refine ⟨slotAddress, cb.pc.trans slotAddress, target, latched, ?pair⟩
  case pair =>
    rw [step_running turn run outside, runOne_decoded fetchedB moved1 decodedB, executedB, finishStep_latched latched,
      moved2]
    show andThen (andThen (runSlot b1) interpose) sample = _
    rw [slot]
    rfl

end Sys2Proof.Machine
end

section
/-! PROOFS. O25 to O29: system control (45_system R321 to R352). A move or a setting is one update of the state and the end of an
instruction, a pop is `popInto`, `RTE` two pops behind the guard against a slot, `TRAPA` and an illegal opcode the entry of R404
behind the same guard. A sleeping core's step is its sample, which accepts a source whenever a level exceeds `IMASK` (R410). -/

namespace Sys2Proof.Machine

/-! ### Moves, settings and pops -/

section ControlRegisters

variable {i : Instr} {m : Reg} {s s1 t u : State} {put : State → Word → State} {v : Word}

theorem becomes_of_done (h : exec i s = done u) (ended : u.advance = t) (bytes : SameBytes s u) : Becomes i s t :=
  ended ▸ ⟨h, bytes⟩

/-- After an answered pop: the pointer is stepped, at most a draw is taken, and the instruction ends (R25, R326). -/
theorem advance_after_pop (read : memRead .core .long (s.reg m) s = .ok (v, s1)) :
    (s1.setReg m (s1.reg m + 4)).advance =
      { s with regs := s.regs.set m.val (s.reg m + 4), pc := s.pc + 2, draws := s1.draws } := by
  rw [(memRead_sameCpu read).reg, memRead_frame read]
  rfl

/-- A pop into a register that is not `pc`, and no byte of memory (R326 to R328, R332 to R334). -/
theorem popsInto_of_popInto (h : exec i s = popInto m put s) (ends : ∀ r w, (put r w).advance = put r.advance w)
    (bytes : ∀ r w, SameBytes r (put r w)) : PopsInto i m put s := by
  refine ⟨fun v s1 read => ?answered, fun f fault => h.trans (loadThen_error fault _)⟩
  rw [← advance_after_pop read, ← ends]
  refine becomes_of_done (h.trans (loadThen_ok read _)) rfl fun a => ?_
  rw [bytes, State.setReg_heldByte, memRead_frame read]
  rfl

end ControlRegisters

/-- Settles O25: each is one update of the state, of a register or of `T`, and the end of the instruction. -/
theorem controlRegisterMoves : Obligations.ControlRegisterMoves := by
  intro s m n
  refine ⟨?ldcSr, ?ldcGbr, ?ldcVbr, ?ldsMach, ?ldsMacl, ?ldsPr, ?clrmac, ?nop, ?clrt, ?sett, ?stcSr, ?stcGbr, ?stcVbr,
    ?stsMach, ?stsMacl, ?stsPr⟩
  case ldcSr | ldcGbr | ldcVbr | ldsMach | ldsMacl | ldsPr | clrmac | nop =>
    exact becomes_of_done rfl rfl fun _ => rfl
  case clrt => exact setsT_of_writeT rfl Bool.false_eq_true.to_iff
  case sett => exact setsT_of_writeT rfl (iff_of_true rfl trivial)
  case stcSr | stcGbr | stcVbr | stsMach | stsMacl | stsPr => exact setsReg_of_writeReg rfl

/-- Settles O26: each is `popInto`, into a register other than `pc`. -/
theorem controlRegisterPops : Obligations.ControlRegisterPops := by
  intro s m
  refine ⟨?sr, ?gbr, ?vbr, ?mach, ?macl, ?pr⟩
  case sr | gbr | vbr | mach | macl | pr => exact popsInto_of_popInto rfl (fun _ _ => rfl) fun _ _ _ => rfl

/-! ### Returning from an exception -/

/-- Where both pops are answered, the second is from the next longword of the stack (R345). -/
theorem returnFromException_ok {s s1 s2 s3 : State} {target v : Word}
    (read1 : memRead .core .long (s.reg 15) s = .ok (target, s1))
    (moved : interpose (s1.setReg 15 (s.reg 15 + 4)) = .next s2)
    (read2 : memRead .core .long (s.reg 15 + 4) s2 = .ok (v, s3)) :
    returnFromException s = delayedBranch target ((s3.setReg 15 (s.reg 15 + 8)).setSr v) := by
  have c2 := memRead_setReg_sameCpu read1 moved
  have sp2 : s2.reg 15 = s.reg 15 + 4 := by rw [c2.reg, State.reg_setReg_self]
  have sp3 : s3.reg 15 + 4 = s.reg 15 + 8 := by rw [(memRead_sameCpu read2).reg, sp2]; bv_omega
  rw [← (memRead_sameCpu read1).reg] at moved
  rw [← sp2] at read2
  rw [returnFromException, popThen, loadThen_ok read1, moved, ← sp3]
  exact loadThen_ok read2 _

/-- Settles O27: outside a slot the guard is open; beside `R15`, `SR`, `pc` and the target, the end state is what the moves
between the pops left. -/
theorem returnFromExceptionPopsPcThenSr : Obligations.ReturnFromExceptionPopsPcThenSr := by
  intro s s1 s2 s3 target v outside read1 moved read2
  have c2 := memRead_setReg_sameCpu read1 moved
  have quiet := memRead_frame read2
  have regs : (s3.setReg 15 (s.reg 15 + 8)).regs = s.regs.set 15 (s.reg 15 + 8) := by
    show s3.regs.set 15 _ = _
    rw [(memRead_sameCpu read2).regs, c2.regs]
    exact congrArg State.regs (s.setReg_setReg 15 _ _)
  refine ⟨_, (outsideSlot_none outside _).trans (returnFromException_ok read1 moved read2), ?bytes, ?state⟩
  case bytes => intro a; rw [quiet]; rfl
  case state =>
    have pc : s3.pc = s.pc := (c2.trans (memRead_sameCpu read2)).pc
    rw [← regs, ← pc, quiet]
    rfl

/-! ### The sample of a sleeping core -/

/-- A level above 0 is that of a triggered source (R445). -/
theorem Intc.exists_currentLevel {i : Intc} (h : 0 < i.currentLevel) :
    ∃ src ∈ i.triggeredSources, i.level src = i.currentLevel := by
  have nonempty : i.triggeredSources.map i.level ≠ [] := fun empty => by simp [Intc.currentLevel, empty] at h
  exact List.mem_map.mp (List.maximum_mem (List.foldr_max_of_ne_nil nonempty).symm)

/-- A choice is made wherever there is a source to choose (R449). -/
theorem chooseSource_of_mem {srcs : List Source} {src : Source} (h : src ∈ srcs) (s : State) :
    ∃ chosen s', chooseSource s srcs = some (chosen, s') := by
  match srcs with
  | [_] => exact ⟨_, _, rfl⟩
  | _ :: _ :: _ => exact ⟨_, _, rfl⟩

/-- No level above `IMASK`: the sample accepts nothing (R410). -/
theorem sample_below {s : State} (h : s.intc.currentLevel ≤ s.imask.toNat) : sample s = .next s := if_neg h.not_gt

/-- A level above `IMASK`: the sample is the acceptance of a source at that level (R410). -/
theorem sample_above {s : State} (h : s.imask.toNat < s.intc.currentLevel) :
    ∃ src s', chooseSource s (s.intc.sourcesAt s.intc.currentLevel) = some (src, s') ∧
      sample s = acceptInterrupt s.intc.currentLevel src s' := by
  obtain ⟨src, triggered, level⟩ := Intc.exists_currentLevel (Nat.zero_lt_of_lt h)
  have candidate : src ∈ s.intc.sourcesAt s.intc.currentLevel := List.mem_filter.mpr ⟨triggered, by simpa using level⟩
  obtain ⟨chosen, s', choice⟩ := chooseSource_of_mem candidate s
  exact ⟨chosen, s', choice, by rw [sample, if_pos h, choice]⟩

/-- An accepted interrupt leaves the core running (R410). -/
theorem acceptInterrupt_running {level : Nat} {src : Source} {s t : State} (h : acceptInterrupt level src s = .next t) :
    t.run = .running := by
  obtain ⟨s', moved, entered⟩ := acceptInterrupt_next h
  exact (enter_sameCpu entered).run.trans (interpose_sameCpu moved).run

/-- The step of a sleeping core whose turn it is: its sample (R350, R410). -/
theorem step_sleeping {s : State} (turn : s.schedule = []) (asleep : s.run = .sleeping) : step s = sample s := by
  rw [step_of_empty turn, agentMove, coreMove, asleep]
  rfl

/-- Settles O28: the standby bit decides between the two outcomes of `SLEEP`; the sleeping core's step is its sample. -/
theorem sleepLastsUntilAnInterrupt : Obligations.SleepLastsUntilAnInterrupt := by
  refine ⟨fun s clear => ?sleeps, fun s standby => if_pos standby, fun s turn asleep => ⟨fun below => ?stays,
    fun above t stepped => ?wakes⟩⟩
  case sleeps => exact becomes_of_done (if_neg (ne_true_of_eq_false clear)) rfl fun _ => rfl
  case stays => exact (step_sleeping turn asleep).trans (sample_below below)
  case wakes =>
    obtain ⟨src, s', -, accepted⟩ := sample_above above
    rw [step_sleeping turn asleep, accepted] at stepped
    exact acceptInterrupt_running stepped

/-! ### `TRAPA` and illegal opcodes -/

/-- Settles O29: outside a slot both are the entry of R404, with their vector and saved address. -/
theorem trapAndIllegalOpcodeEnterTheirHandler : Obligations.TrapAndIllegalOpcodeEnterTheirHandler := by
  intro s outside
  refine ⟨fun imm => ?trap, fun op illegal => ?illegal⟩
  case trap =>
    have entry : exec (.trapa imm) s = enter imm.toNat (s.pc + 2) none s := outsideSlot_none outside _
    exact entry ▸ enter_entersHandler imm.toNat (s.pc + 2) none s
  case illegal =>
    have entry : execOpcode op s = enter 4 s.pc none s := by
      rw [execOpcode, illegal]
      exact outsideSlot_none outside _
    exact entry ▸ enter_entersHandler 4 s.pc none s

end Sys2Proof.Machine
end

section
/-! PROOFS. O30, O32 to O34 and O36: taking an exception and accepting an interrupt (60_exceptions R404, R410, R411, R440 to
R449). What an entry leaves on the stack is what the core wrote last; the current level is a maximum over the triggered sources,
and the sample that exceeds `IMASK` is the acceptance of one at that level. -/

namespace Sys2Proof.Machine

/-! ### The frame of an entry on the stack -/

/-- An entry leaves `R15` lower by its two longwords (R404). -/
theorem enter_reg15 {s t : State} {vector : Nat} {savedPc : Word} {newImask : Option (BitVec 4)}
    (h : enter vector savedPc newImask s = .next t) : t.reg 15 = s.reg 15 - 8 :=
  ((enter_sameCpu h).reg 15).trans (s.reg_setReg_self 15 _)

/-- The frame of an entry on a stack in SDRAM holds the saved `PC`, where no other agent moves inside (R404). -/
theorem enter_frame_holds_pc {s t : State} {vector : Nat} {savedPc : Word} {newImask : Option (BitVec 4)}
    (map : AtDefaultMap s) (hwf : CanonicalMemory s) (quiet : s.inside = []) (al : (s.reg 15).toNat % 4 = 0)
    (lo : 0x6000008 ≤ (s.reg 15).toNat) (hi : (s.reg 15).toNat ≤ 0x6040000)
    (h : enter vector savedPc newImask s = .next t) : ∃ u, memRead .core .long (t.reg 15) t = .ok (savedPc, u) := by
  have sp := enter_reg15 h
  obtain ⟨s1, s3, handler, s5, hw1, hw2, hr, rfl⟩ := enter_next_quiet quiet h
  have place : (s.reg 15 - 8).toNat = (s.reg 15).toNat - 8 := by bv_omega
  have map1 : AtDefaultMap s1 := (congrArg Params.layout (memWrite_sameCpu hw1).params).trans map
  have map3 : AtDefaultMap s3 := (congrArg Params.layout (memWrite_sameCpu hw2).params).trans map1
  have wf1 : CanonicalMemory s1 := memWrite_wf (s := s.setReg 15 _) hwf hw1
  have saved := memWrite_sdram_coreWroteAll (s := s1.setReg 15 _) map1 wf1 (by omega) (by omega) (by omega) hw2
  rw [sp, memRead_frame hr, State.withMask_frame]
  exact memRead_sdram_coreWroteAll (s := { s3 with pc := handler, sr := _, draws := _ }) map3 (by omega) (by omega)
    (by omega) saved

/-- Settles O30: the core reads back both longwords of the frame, each as it wrote it last. -/
theorem entryLeavesPcBelowSrOnTheStack : Obligations.EntryLeavesPcBelowSrOnTheStack := by
  intro s t vector savedPc newImask map hwf quiet al lo hi h
  exact ⟨enter_reg15 h, enter_frame_holds_pc map hwf quiet al lo hi h, enter_frame_holds_sr map hwf quiet al lo hi h⟩

/-! ### The current level -/

theorem mem_allSources (src : Source) : src ∈ allSources := by
  match src with
  | .board b => cases b <;> decide
  | .dmac c => cases c <;> decide
  | .divu | .wdt => decide

theorem Intc.mem_triggeredSources {i : Intc} {src : Source} : src ∈ i.triggeredSources ↔ i.triggered src = true := by
  rw [Intc.triggeredSources, List.mem_filter, and_iff_right (mem_allSources src)]

theorem Intc.mem_sourcesAt {i : Intc} {level : Nat} {src : Source} :
    src ∈ i.sourcesAt level ↔ src ∈ i.triggeredSources ∧ i.level src = level := by
  rw [Intc.sourcesAt, List.mem_filter, decide_eq_true_iff]

/-- The level of an on-chip source is a field of four bits (R451). -/
theorem Intc.level_onChip_lt (i : Intc) {src : Source} (onChip : ∀ b, src ≠ .board b) : i.level src < 16 := by
  match src with
  | .board b => exact absurd rfl (onChip b)
  | .divu | .dmac _ | .wdt => exact BitVec.isLt _

/-- No level is above 16, the NMI's (R441, R451). -/
theorem Intc.level_le (i : Intc) (src : Source) : i.level src ≤ 16 := by
  by_cases board : ∃ b, src = .board b
  · obtain ⟨b, rfl⟩ := board
    show b.level ≤ 16
    cases b <;> decide
  · exact (i.level_onChip_lt (not_exists.mp board)).le

/-- A valid source has a level above 0 (R441, R444). -/
theorem Intc.level_pos {i : Intc} {src : Source} (h : i.valid src = true) : 0 < i.level src := by
  match src with
  | .board b =>
    show 0 < b.level
    cases b <;> decide
  | .divu | .dmac _ | .wdt => exact of_decide_eq_true h

/-- The current level is at least that of any triggered source (R445). -/
theorem Intc.level_le_currentLevel {i : Intc} {src : Source} (h : i.triggered src = true) :
    i.level src ≤ i.currentLevel :=
  List.le_max_of_le (List.mem_map_of_mem (Intc.mem_triggeredSources.mpr h)) (le_refl (i.level src))

/-- Settles O33: the maximum is taken at a triggered source, whose level is above 0 because it is valid. -/
theorem currentLevelIsTheLargestTriggered : Obligations.CurrentLevelIsTheLargestTriggered := by
  refine fun i => ⟨fun src => Intc.level_le_currentLevel, fun nothing => ?zero, fun ⟨src, triggered⟩ => ?taken⟩
  case zero =>
    by_contra positive
    obtain ⟨src, triggered, -⟩ := Intc.exists_currentLevel (Nat.pos_of_ne_zero positive)
    rw [Intc.mem_triggeredSources, nothing] at triggered
    exact Bool.false_ne_true triggered
  case taken =>
    have valid : i.valid src = true := (Bool.and_eq_true _ _ ▸ triggered).1
    have positive : 0 < i.currentLevel := (Intc.level_pos valid).trans_le (Intc.level_le_currentLevel triggered)
    obtain ⟨top, mem, level⟩ := Intc.exists_currentLevel positive
    exact ⟨top, Intc.mem_triggeredSources.mp mem, level, positive, level ▸ i.level_le top⟩

/-! ### The sample -/

/-- An acceptance, then the moves that fall before the first push, then the entry (R404, R410, R94). -/
theorem acceptInterrupt_entersHandler (level : Nat) (src : Source) (s : State) :
    StopsWith (interpose { s.acceptSource src with run := .running }) (acceptInterrupt level src s) ∧
    ∀ s', interpose { s.acceptSource src with run := .running } = .next s' →
      EntersHandler (acceptInterrupt level src s) (s.vectorFor src) s.pc (some (acceptedMask level)) s' := by
  refine ⟨stopsWith_andThen rfl, fun s' moved => ?_⟩
  rw [acceptInterrupt, moved]
  exact enter_entersHandler _ _ _ s'

/-- Acceptance touches at most the pending bits, and no draw (R448). -/
theorem State.acceptSource_frame (s : State) (src : Source) :
    s.acceptSource src = { s with intc := { s.intc with pending := (s.acceptSource src).intc.pending } } := by
  cases src <;> rfl

/-- Settles O32: above `IMASK` the sample is the acceptance of a source at the current level, then the entry of R404. -/
theorem sampleAcceptsTheHighestLevelAboveMask : Obligations.SampleAcceptsTheHighestLevelAboveMask := by
  refine fun s => ⟨sample_below, fun above => ?_⟩
  obtain ⟨src, chosen, choice, accepted⟩ := sample_above above
  obtain ⟨mem, drawn⟩ := chooseSource_mem choice
  obtain ⟨triggered, level⟩ := Intc.mem_sourcesAt.mp mem
  have start : { chosen.acceptSource src with run := .running } =
      { s.acceptSource src with run := .running, draws := chosen.draws } := by
    rw [drawn]
    cases src <;> rfl
  have vector : chosen.vectorFor src = s.vectorFor src := by rw [drawn]; rfl
  have pc : chosen.pc = s.pc := by rw [drawn]
  have entry := acceptInterrupt_entersHandler s.intc.currentLevel src chosen
  rw [start, vector, pc, ← accepted] at entry
  exact ⟨src, _, triggered, level, by rw [s.acceptSource_frame], rfl, entry⟩

/-- The NMI is the one source of level 16 (R441, R451). -/
theorem Intc.level_eq_16_iff (i : Intc) (src : Source) : i.level src = 16 ↔ src = .board .nmi := by
  by_cases board : ∃ b, src = .board b
  · obtain ⟨b, rfl⟩ := board
    show b.level = 16 ↔ _
    cases b <;> simp [BoardSource.level]
  · have onChip := not_exists.mp board
    exact iff_of_false (i.level_onChip_lt onChip).ne (onChip .nmi)

theorem Intc.sourcesAt_16 {i : Intc} (h : i.triggered (.board .nmi) = true) : i.sourcesAt 16 = [.board .nmi] := by
  have only : ∀ src ∈ allSources, (decide (i.level src = 16) && i.triggered src) = decide (src = .board .nmi) := by
    intro src _
    by_cases nmi : src = .board .nmi
    · simp [i.level_eq_16_iff, nmi, h]
    · simp [i.level_eq_16_iff, nmi]
  rw [Intc.sourcesAt, Intc.triggeredSources, List.filter_filter, List.filter_congr only]
  rfl

/-- Settles O34: the NMI is always valid, no level is above its own, and no other source has it. -/
theorem nmiIsNeverMasked : Obligations.NmiIsNeverMasked := by
  intro s pending
  have triggered : s.intc.triggered (.board .nmi) = true := pending
  obtain ⟨top, -, level⟩ := Intc.exists_currentLevel (i := s.intc)
    ((Nat.succ_pos 15).trans_le (Intc.level_le_currentLevel triggered))
  have current : s.intc.currentLevel = 16 :=
    le_antisymm (level ▸ s.intc.level_le top) (Intc.level_le_currentLevel triggered)
  have above : s.imask.toNat < s.intc.currentLevel := current ▸ s.imask.isLt
  refine ⟨current, above, ?_⟩
  rw [sample, if_pos above, current, Intc.sourcesAt_16 triggered]
  rfl

/-! ### Acceptance -/

/-- A pending bit set is seen at its own source (R442). -/
theorem Pending.get_put_self (p : Pending) (src : Source) (b : Bool) : (p.put src b).get src = b := by
  match src with
  | .board b => cases b <;> rfl
  | .dmac c => cases c <;> rfl
  | .divu | .wdt => rfl

/-- The other sources keep theirs (R442). -/
theorem Pending.get_put_ne (p : Pending) {src other : Source} (h : other ≠ src) (b : Bool) :
    (p.put src b).get other = p.get other := by
  rcases src with (_ | _ | _ | _ | _ | _) | _ | (_ | _) | _ <;>
    rcases other with (_ | _ | _ | _ | _ | _) | _ | (_ | _) | _ <;>
    first | rfl | exact absurd rfl h

/-- An on-chip source lowers its own pending bit (R448). -/
theorem State.acceptSource_onChip (s : State) {src : Source} (onChip : ∀ b, src ≠ .board b) :
    s.acceptSource src = s.setPending src false := by
  cases src with
  | board b => exact absurd rfl (onChip b)
  | divu | dmac _ | wdt => rfl

/-- Settles O36: a board source is left alone, an on-chip source's own pending bit is lowered. -/
theorem acceptanceClearsOnChipSourcesOnly : Obligations.AcceptanceClearsOnChipSourcesOnly := by
  intro s src
  refine ⟨?board, fun onChip => ?self, fun other different => ?others, s.acceptSource_frame src⟩
  case board => rintro b rfl; rfl
  case self =>
    rw [s.acceptSource_onChip onChip]
    exact Pending.get_put_self _ _ _
  case others =>
    by_cases board : ∃ b, src = .board b
    · obtain ⟨b, rfl⟩ := board
      rfl
    · rw [s.acceptSource_onChip (not_exists.mp board)]
      exact Pending.get_put_ne _ different _

end Sys2Proof.Machine
end

section
/-! PROOFS. O46 to O50: the on-chip register block (60_exceptions R438, R439, R450, R456 to R460, R470 to R488). An access of the
core at an address of the block is one of the register there, of the WDT's ports, of the byte storage, or refused; what a
register reads after it is written is a fact of that register alone. -/

namespace Sys2Proof.Machine

/-! ### Accesses of the block -/

/-- The block on the default map: the last 512 bytes of the address space (R78). -/
theorem decodeAddress_block {p : Params} (map : p.layout = Config.defaultLayout) {a : Word} (lo : 0xFFFFFE00 ≤ a.toNat)
    (ag : Agent) (sz : Size) (kind : AccessKind) :
    decodeAddress p ag a sz kind = if ag = .core then .onChip (a.toNat - 0xFFFFFE00) else .unmapped := by
  have block : inOnChipBlock p a = true := by
    simp [inOnChipBlock, map, Config.defaultLayout, lo]; omega
  rw [decodeAddress, if_pos block, map]
  rfl

theorem memRead_block {s : State} (map : AtDefaultMap s) {sz : Size} {a : Word} (al : a.toNat % sz.bytes = 0)
    (lo : 0xFFFFFE00 ≤ a.toNat) : memRead .core sz a s = s.onChipRead sz a (a.toNat - 0xFFFFFE00) := by
  rw [memRead, memReadVia, if_pos ((aligned_iff sz a).mpr al), decodeAddress_block map lo, if_pos rfl]

theorem memWrite_block {s : State} (map : AtDefaultMap s) {sz : Size} {a : Word} (al : a.toNat % sz.bytes = 0)
    (lo : 0xFFFFFE00 ≤ a.toNat) (v : Word) :
    memWrite .core sz a v s = s.onChipWrite sz a (a.toNat - 0xFFFFFE00) v := by
  rw [memWrite, if_pos ((aligned_iff sz a).mpr al), decodeAddress_block map lo, if_pos rfl]

/-- The register `r` stands at the address `a` of the block and is accessed by `sz` (R438, R439). -/
abbrev RegisterPlace (r : OnChipReg) (sz : Size) (a : Word) : Prop :=
  a.toNat % sz.bytes = 0 ∧ 0xFFFFFE00 ≤ a.toNat ∧ registerAt (a.toNat - 0xFFFFFE00) sz = some r

/-- Its place is none of the WDT's ports (R482). -/
abbrev PlainPlace (r : OnChipReg) (sz : Size) (a : Word) : Prop :=
  RegisterPlace r sz a ∧ touchesWdtPorts (a.toNat - 0xFFFFFE00) sz = false

/-- A read of a register of the map (R439). -/
theorem memRead_register {s : State} (map : AtDefaultMap s) {r : OnChipReg} {sz : Size} {a : Word}
    (place : RegisterPlace r sz a) : memRead .core sz a s = .ok (s.readRegister r) := by
  obtain ⟨al, lo, listed⟩ := place
  rw [memRead_block map al lo, State.onChipRead, listed]

/-- A write of a register of the map other than the WDT's (R439, R482). -/
theorem memWrite_register {s : State} (map : AtDefaultMap s) {r : OnChipReg} {sz : Size} {a : Word}
    (place : PlainPlace r sz a) (v : Word) : memWrite .core sz a v s = .ok (s.writeRegister r v) := by
  obtain ⟨⟨al, lo, listed⟩, apart⟩ := place
  rw [memWrite_block map al lo, State.onChipWrite, apart, listed]
  rfl

/-- A write that touches the WDT's ports (R482, R487). -/
theorem memWrite_wdtPorts {s : State} (map : AtDefaultMap s) {sz : Size} {a : Word} {off : Nat}
    (place : a.toNat = 0xFFFFFE00 + off) (al : a.toNat % sz.bytes = 0) (ports : touchesWdtPorts off sz = true) (v : Word) :
    memWrite .core sz a v s = .ok { s with wdt := s.wdt.writePort off sz v } := by
  have offset : a.toNat - 0xFFFFFE00 = off := by omega
  rw [memWrite_block map al (by omega), offset, State.onChipWrite, if_pos ports]

/-! ### O48: accesses of the wrong shape -/

theorem truncate_ones (sz : Size) : truncate sz 0xFFFFFFFF = BitVec.ofNat 32 (2 ^ (8 * sz.bytes) - 1) := by
  cases sz <;> rfl

/-- A refused read by the setting of `UNMAPPED` (R88). -/
theorem State.refusedRead_policy (s : State) (kind : AccessKind) (ag : Agent) (sz : Size) (a : Word) :
    (s.params.unmapped = .fault → s.refusedRead kind ag sz a = .error (.busPolicy a sz kind ag)) ∧
    (s.params.unmapped = .clamp → s.refusedRead kind ag sz a = .ok (BitVec.ofNat 32 (2 ^ (8 * sz.bytes) - 1), s)) := by
  rw [State.refusedRead, truncate_ones]
  exact ⟨fun h => by rw [h], fun h => by rw [h]⟩

/-- A refused write by the setting of `UNMAPPED` (R88). -/
theorem State.refusedWrite_policy (s : State) (kind : AccessKind) (ag : Agent) (sz : Size) (a : Word) :
    (s.params.unmapped = .fault → s.refusedWrite kind ag sz a = .error (.busPolicy a sz kind ag)) ∧
    (s.params.unmapped = .clamp → s.refusedWrite kind ag sz a = .ok s) := by
  rw [State.refusedWrite]
  exact ⟨fun h => by rw [h], fun h => by rw [h]⟩

/-- Settles O48: such an access, and any access of a channel, is a refused one; what that is, `UNMAPPED` decides. -/
theorem onChipAccessesOfTheWrongShapeFault : Obligations.OnChipAccessesOfTheWrongShapeFault := by
  intro sz a v s map al lo
  refine ⟨fun touches unlisted => ?core, fun c => ?channel⟩
  case core =>
    have read : memRead .core sz a s = s.refusedRead .size .core sz a := by
      rw [memRead_block map al lo, State.onChipRead, unlisted]
      exact if_pos touches
    have write : touchesWdtPorts (a.toNat - 0xFFFFFE00) sz = false →
        memWrite .core sz a v s = s.refusedWrite .size .core sz a := by
      intro apart
      rw [memWrite_block map al lo, State.onChipWrite, if_neg (ne_true_of_eq_false apart), unlisted]
      exact if_pos touches
    obtain ⟨readFault, readClamp⟩ := s.refusedRead_policy .size .core sz a
    obtain ⟨writeFault, writeClamp⟩ := s.refusedWrite_policy .size .core sz a
    exact ⟨fun setting => ⟨read.trans (readFault setting), fun apart => (write apart).trans (writeFault setting)⟩,
      fun setting => ⟨read.trans (readClamp setting), fun apart => (write apart).trans (writeClamp setting)⟩⟩
  case channel =>
    have place : ∀ kind, decodeAddress s.params (.dmac c) a sz kind = .unmapped := fun kind =>
      decodeAddress_block map lo (.dmac c) sz kind
    have read : memRead (.dmac c) sz a s = s.refusedRead .read (.dmac c) sz a := memRead_refused al (by simp [place])
    have write : memWrite (.dmac c) sz a v s = s.refusedWrite .write (.dmac c) sz a :=
      memWrite_refused al (by simp [place]) v
    obtain ⟨readFault, readClamp⟩ := s.refusedRead_policy .read (.dmac c) sz a
    obtain ⟨writeFault, writeClamp⟩ := s.refusedWrite_policy .write (.dmac c) sz a
    exact ⟨fun setting => ⟨read.trans (readFault setting), write.trans (writeFault setting)⟩,
      fun setting => ⟨read.trans (readClamp setting), write.trans (writeClamp setting)⟩⟩

/-! ### O47: what a register reads after it is written -/

/-- The bits a plain register stores, the others read 0; `none` for the registers a write does more to or less (R450, R457,
R459, R470, R472, R477). -/
def plainMask (p : Params) : OnChipReg → Option Word
  | .iprb => some 0xFF00
  | .vcra | .vcrb | .vcrc | .vcrd | .vcrwdt => some 0x7F7F
  | .ipra => some 0xFFF0
  | .drcr _ => some 0x03
  | .sbycr | .ccr => some 0xFF
  | .dvsr | .dvdnth | .sar _ | .dar _ => some 0xFFFFFFFF
  | .vcrdiv => some 0xFFFF
  | .tcr _ => some (tcrMask p)
  | .vcrdma _ => some 0xFF
  | .wtcsr | .wtcnt | .rstcsr | .icr | .dvdnt | .dvcr | .dvdntl | .dvdntuh | .dvdntul | .chcr _ | .dmaor => none

/-- A value cut to a narrow register and its mask, as a read returns it. -/
theorem setWidth_and_setWidth {n : Nat} (v : Word) (m : BitVec n) :
    (v.setWidth n &&& m).setWidth 32 = v &&& m.setWidth 32 := by
  ext i hi
  rw [BitVec.getElem_and, BitVec.getElem_setWidth, BitVec.getElem_setWidth, BitVec.getLsbD_and, BitVec.getLsbD_setWidth]
  by_cases low : i < n
  · simp [low, BitVec.getLsbD_eq_getElem hi]
  · simp [low, BitVec.getLsbD_of_ge m i (Nat.le_of_not_lt low)]

/-- A plain register reads back the bits it stores (R439). -/
theorem State.readRegister_writeRegister {s : State} {r : OnChipReg} {m : Word} (plain : plainMask s.params r = some m)
    (v : Word) : (s.writeRegister r v).readRegister r = (v &&& m, s.writeRegister r v) := by
  have all : v &&& 0xFFFFFFFF = v := BitVec.and_allOnes
  suffices value : ((s.writeRegister r v).readRegister r).1 = v &&& m from
    Prod.ext value (by cases r <;> first | rfl | cases plain)
  cases r <;> cases plain
  case iprb | vcra | vcrb | vcrc | vcrd | vcrwdt | ipra => exact setWidth_and_setWidth (n := 16) v _
  case drcr c =>
    simp only [State.readRegister, State.writeRegister, State.chan_setChan_self]
    exact setWidth_and_setWidth (n := 8) v _
  case sbycr | ccr => exact setWidth_byte v
  case dvsr | dvdnth => exact all.symm
  case vcrdiv => rfl
  case sar | dar | tcr | vcrdma => simp only [State.readRegister, State.writeRegister, State.chan_setChan_self, all]

/-- A write of a register leaves the parameters alone (R6). -/
theorem State.writeRegister_params (s : State) (r : OnChipReg) (v : Word) : (s.writeRegister r v).params = s.params :=
  (s.writeRegister_frame r v).1.sameCpu.params

/-- What the core writes to a plain register of the map it reads back there (R439). -/
theorem plainRegister_readsBack {s : State} (map : AtDefaultMap s) {r : OnChipReg} {sz : Size} {a m : Word}
    (place : PlainPlace r sz a) (plain : plainMask s.params r = some m) (v : Word) :
    ∃ t, memWrite .core sz a v s = .ok t ∧ memRead .core sz a t = .ok (v &&& m, t) := by
  have mapT : AtDefaultMap (s.writeRegister r v) := (congrArg Params.layout (s.writeRegister_params r v)).trans map
  refine ⟨_, memWrite_register map place v, ?_⟩
  rw [memRead_register mapT place.1, State.readRegister_writeRegister plain]

/-- A byte of the block's storage: no register claims it, and no absent module drives it (R470). -/
theorem storageByte_readsBack {s : State} (map : AtDefaultMap s) (hwf : CanonicalMemory s) {a : Word}
    (lo : 0xFFFFFE00 ≤ a.toNat) (unclaimed : touchesRegister (a.toNat - 0xFFFFFE00) .byte = false)
    (steady : isVolatile (a.toNat - 0xFFFFFE00) = false) (v : Word) :
    ∃ t, memWrite .core .byte a v s = .ok t ∧ memRead .core .byte a t = .ok (v &&& 0xFF, t) ∧
      t = { s with mem := t.mem } ∧
      ∀ b, b ≠ Config.onChipStore + (a.toNat - 0xFFFFFE00) → t.heldByte b = s.heldByte b := by
  obtain ⟨off, place⟩ : ∃ off, a.toNat - 0xFFFFFE00 = off := ⟨_, rfl⟩
  rw [place] at unclaimed steady ⊢
  have apart : touchesWdtPorts off .byte = false := (Bool.or_eq_false_iff.mp unclaimed).1
  have unlisted : registerAt off .byte = none := by
    by_contra listed
    obtain ⟨r, listed⟩ := Option.ne_none_iff_exists'.mp listed
    rw [registerAt_touches listed] at unclaimed
    cases unclaimed
  have write : memWrite .core .byte a v s = .ok (s.writeCells [(Config.onChipStore + off, v.extractLsb' 0 8)]) := by
    rw [memWrite_block map (Nat.mod_one _) lo, place, State.onChipWrite, if_neg (ne_true_of_eq_false apart), unlisted,
      unclaimed]
    rfl
  refine ⟨_, write, ?read, rfl, fun b hb => State.heldByte_writeCells_of_not_mem _ s (by simpa using hb)⟩
  case read =>
    have held := (State.heldByte_writeCells_one hwf (Config.onChipStore + off) (Config.onChipStore + off)
      (v.extractLsb' 0 8)).trans (if_pos rfl)
    have above : Config.sdramStore ≤ Config.onChipStore + off := Nat.le_add_right_of_le (by decide)
    rw [memRead_block (s := s.writeCells _) map (Nat.mod_one _) lo, place, State.onChipRead, unlisted, unclaimed,
      ← lowByte_setWidth]
    simp only [Size.bytes, State.storageBytes, steady, State.readByte_store (.inl rfl) above, State.storeByte, held,
      beValue_one]
    simp [steady]

/-- At the address `a` stands a plain register that stores the bits `m`. -/
def PlainAt (p : Params) (sz : Size) (a m : Word) : Prop := ∃ r, PlainPlace r sz a ∧ plainMask p r = some m

/-- Settles O47: each row names a plain register by its place and the bits it stores. -/
theorem onChipRegistersReadBackTheirFields : Obligations.OnChipRegistersReadBackTheirFields := by
  intro s v map
  have readsBack {sz : Size} {rows : List (Word × Word)} (table : ∀ row ∈ rows, PlainAt s.params sz row.1 row.2) :
      ∀ row ∈ rows, ∃ t, memWrite .core sz row.1 v s = .ok t ∧ memRead .core sz row.1 t = .ok (v &&& row.2, t) := by
    intro row hrow
    obtain ⟨r, place, plain⟩ := table row hrow
    exact plainRegister_readsBack map place plain v
  refine ⟨readsBack ?words, readsBack ?bytes, readsBack ?longs, fun a hwf lo unclaimed steady =>
    storageByte_readsBack map hwf lo unclaimed steady v⟩
  all_goals simp only [List.forall_mem_cons, List.not_mem_nil, false_imp_iff, implies_true, and_true]
  case words =>
    exact ⟨⟨.iprb, by decide, rfl⟩, ⟨.vcra, by decide, rfl⟩, ⟨.vcrb, by decide, rfl⟩, ⟨.vcrc, by decide, rfl⟩,
      ⟨.vcrd, by decide, rfl⟩, ⟨.ipra, by decide, rfl⟩, ⟨.vcrwdt, by decide, rfl⟩⟩
  case bytes =>
    exact ⟨⟨.drcr .ch0, by decide, rfl⟩, ⟨.drcr .ch1, by decide, rfl⟩, ⟨.sbycr, by decide, rfl⟩, ⟨.ccr, by decide, rfl⟩⟩
  case longs =>
    exact ⟨⟨.dvsr, by decide, rfl⟩, ⟨.vcrdiv, by decide, rfl⟩, ⟨.dvdnth, by decide, rfl⟩, ⟨.sar .ch0, by decide, rfl⟩,
      ⟨.dar .ch0, by decide, rfl⟩, ⟨.tcr .ch0, by decide, rfl⟩, ⟨.sar .ch1, by decide, rfl⟩,
      ⟨.dar .ch1, by decide, rfl⟩, ⟨.tcr .ch1, by decide, rfl⟩, ⟨.vcrdma .ch0, by decide, rfl⟩,
      ⟨.vcrdma .ch1, by decide, rfl⟩⟩

/-! ### O46: flags a write can only clear -/

/-- Such a flag is the written bit where the flag was set, and 0 elsewhere (R458, R460, R477). -/
theorem clearOnly_eq {w : Nat} (old written : BitVec w) (i : Nat) :
    clearOnly old written i = written &&& (old ||| ~~~BitVec.twoPow w i) := by
  ext k hk
  have bit : (withBit written i (old.getLsbD i && written.getLsbD i))[k] =
      if k = i then old.getLsbD i && written.getLsbD i else written[k] := by
    simpa [hk, BitVec.getLsbD_eq_getElem] using withBit_getLsbD written i k (old.getLsbD i && written.getLsbD i)
  rw [clearOnly, bit]
  by_cases h : k = i
  · subst h
    simp [hk, BitVec.getLsbD_eq_getElem, Bool.and_comm]
  · simp [h]

/-- Two clearings are one, of both flags. -/
theorem clearing_and_clearing {w : Nat} (old f g : BitVec w) :
    (old ||| ~~~f) &&& (old ||| ~~~g) = old ||| ~~~(f ||| g) := by
  ext k hk
  simp only [BitVec.getElem_and, BitVec.getElem_or, BitVec.getElem_not, Bool.not_or, ← Bool.or_and_distrib_left]

/-- The bits a clearing write stores, and those it clears. -/
theorem and_clearing {w : Nat} (v m old flags : BitVec w) :
    v &&& m &&& (old ||| ~~~flags) = (v &&& (m &&& ~~~flags)) ||| (v &&& old &&& (m &&& flags)) := by
  ext k hk
  simp only [BitVec.getElem_and, BitVec.getElem_or, BitVec.getElem_not]
  cases flags[k] <;> simp [Bool.and_right_comm]

/-- A write of `CHCR` (R458). -/
theorem chcr_written (old v : Word) : clearOnly old (v &&& 0xFFFF) 1 = (v &&& 0xFFFD) ||| (v &&& old &&& 2) := by
  rw [clearOnly_eq, and_clearing]; rfl

/-- A write of `DMAOR`, with its two flags (R460). -/
theorem dmaor_written_bits (old v : Word) :
    clearOnly old (clearOnly old (v &&& 0xF) 1) 2 = (v &&& 0x9) ||| (v &&& old &&& 0x6) := by
  rw [clearOnly_eq, clearOnly_eq, BitVec.and_assoc (v &&& 0xF), clearing_and_clearing, and_clearing]; rfl

/-- A write of `DVCR` (R477). -/
theorem dvcr_written (old v : Word) : clearOnly old (v &&& 0x3) 0 = (v &&& 0x2) ||| (v &&& old &&& 0x1) := by
  rw [clearOnly_eq, and_clearing]; rfl

/-- `ICR` read after a write of `v`: its low fifteen bits, whatever bit 15 draws (R450). -/
theorem icr_read_bits (v : Word) (b : Bool) :
    (withBit (v.setWidth 16 &&& 0x0101 : Half) 15 b).setWidth 32 &&& (0x7FFF : Word) = v &&& 0x0101 := by
  have cut : (0x7FFF : Word) = (0x7FFF : Half).setWidth 32 := rfl
  rw [cut, ← BitVec.setWidth_and, withBit_and (by decide), BitVec.and_assoc]
  exact setWidth_and_setWidth v (0x0101 &&& 0x7FFF : Half)

/-- Settles O46: each write is one of a register of the map, whose flags `clearOnly` writes. -/
theorem hardwareFlagsAreClearedNeverSet : Obligations.HardwareFlagsAreClearedNeverSet := by
  intro s v map
  refine ⟨⟨_, memWrite_register (r := .chcr .ch0) map (by decide) v, ?_⟩,
    ⟨_, memWrite_register (r := .chcr .ch1) map (by decide) v, ?_⟩,
    ⟨_, memWrite_register (r := .dmaor) map (by decide) v, ?_⟩,
    ⟨_, memWrite_register (r := .dvcr) map (by decide) v, ?_⟩,
    ⟨_, _, _, memWrite_register (r := .icr) map (by decide) v,
      memRead_register (r := .icr) (s := s.writeRegister .icr v) map (by decide), icr_read_bits v _⟩⟩
  · rw [← chcr_written]; rfl
  · rw [← chcr_written]; rfl
  · rw [← dmaor_written_bits]; rfl
  · rw [← dvcr_written]; rfl

/-! ### O49: the division unit -/

/-- The quotient truncated toward zero and its remainder are the one pair of the division law (R473). -/
theorem tdiv_tmod_of_law {a b q r : Int} (nonzero : b ≠ 0) (law : a = q * b + r) (small : r.natAbs < b.natAbs)
    (sign : r = 0 ∨ (r < 0 ↔ a < 0)) : a.tdiv b = q ∧ a.tmod b = r := by
  have sum : r + b * q = a := by rw [law, Int.mul_comm, Int.add_comm]
  rcases lt_or_ge a 0 with negative | nonneg
  · exact (Int.tdiv_tmod_unique' negative.le nonzero).mpr ⟨sum, by omega, by omega⟩
  · exact (Int.tdiv_tmod_unique nonneg nonzero).mpr ⟨sum, by omega, by omega⟩

theorem fitsWord_iff (v : Int) : fitsWord v = true ↔ -2 ^ 31 ≤ v ∧ v ≤ 2 ^ 31 - 1 := by
  simp [fitsWord]

/-- A signed value that fits is its word's value. -/
theorem toInt_ofInt_of_fits {v : Int} (lo : -2 ^ 31 ≤ v) (hi : v ≤ 2 ^ 31 - 1) : (BitVec.ofInt 32 v).toInt = v := by
  rw [BitVec.toInt_ofInt]
  exact Int.bmod_eq_of_le (by omega) (by omega)

/-- What every division leaves alone, overflow or not (R472 to R476). -/
theorem State.divide_keeps (s : State) (a b : Int) :
    (s.divide a b).divu.dvdnt = (s.divide a b).divu.dvdntl ∧ (s.divide a b).divu.dvsr = s.divu.dvsr ∧
      (s.divide a b).divu.vcrdiv = s.divu.vcrdiv := by
  unfold State.divide
  split <;> exact ⟨rfl, rfl, rfl⟩

/-- A division whose quotient exists and fits (R473, R474). -/
theorem State.divide_fits (s : State) {a b q r : Int} (nonzero : b ≠ 0) (quotient : a.tdiv b = q) (remainder : a.tmod b = r)
    (lo : -2 ^ 31 ≤ q) (hi : q ≤ 2 ^ 31 - 1) :
    s.divide a b = { s with divu := { s.divu with
      dvdnt := BitVec.ofInt 32 q, dvdntl := BitVec.ofInt 32 q, dvdnth := BitVec.ofInt 32 r } } := by
  have fits : ¬ (b = 0 ∨ fitsWord (a.tdiv b) = false) := by
    rw [quotient, not_or, Bool.not_eq_false, fitsWord_iff]; exact ⟨nonzero, lo, hi⟩
  rw [State.divide, if_neg fits, quotient, remainder]

/-- A division by 0, or one whose quotient does not fit, is the overflow (R476). -/
theorem State.divide_overflows (s : State) {a b : Int} (h : b = 0 ∨ fitsWord (a.tdiv b) = false) :
    s.divide a b = s.divOverflow a b := by
  rw [State.divide, if_pos h]

/-- The saturated quotient by the sign of the exact one, and for a divisor of 0 by the dividend's (R476). -/
theorem saturatedQuotient_eq (a b : Int) :
    saturatedQuotient a b = if (if b = 0 then a < 0 else (a < 0) ≠ (b < 0)) then 0x80000000 else 0x7FFFFFFF := by
  rw [saturatedQuotient]
  refine if_congr ?_ rfl rfl
  by_cases zero : b = 0
  · rw [if_pos zero, if_pos zero, decide_eq_true_iff]
  · rw [if_neg zero, if_neg zero, bne_iff_ne, Ne, decide_eq_decide, Ne, eq_iff_iff]

/-- Settles O49: the write divides; the law has one solution, and it decides between quotient and overflow. -/
theorem divisionUnitDividesOrSaturates : Obligations.DivisionUnitDividesOrSaturates := by
  intro s v a b wide map divisor dividend
  have write : memWrite .core .long (if wide then 0xFFFFFF14 else 0xFFFFFF04) v s = .ok (s.divide a b) := by
    subst divisor dividend
    cases wide with
    | true => exact memWrite_register (r := .dvdntl) map (by decide) v
    | false => exact memWrite_register (r := .dvdnt) map (by decide) v
  obtain ⟨copies, dvsr, vcrdiv⟩ := s.divide_keeps a b
  refine ⟨s.divide a b, write, s.divide_frame a b, copies, dvsr, vcrdiv,
    fun q r nonzero law small sign lo hi => ?fits, fun overflow => ?overflows⟩
  case fits =>
    obtain ⟨quotient, remainder⟩ := tdiv_tmod_of_law nonzero law small sign
    have width : b.natAbs ≤ 2 ^ 31 := by have := s.divu.dvsr.toInt_lt; have := s.divu.dvsr.le_toInt; omega
    rw [s.divide_fits nonzero quotient remainder lo hi]
    exact ⟨toInt_ofInt_of_fits lo hi, toInt_ofInt_of_fits (by omega) (by omega), rfl⟩
  case overflows =>
    have outside : b = 0 ∨ fitsWord (a.tdiv b) = false := by
      rcases Classical.em (b = 0) with zero | nonzero
      · exact .inl zero
      obtain ⟨q, r, law, small, sign, range⟩ := overflow.resolve_left nonzero
      obtain ⟨quotient, -⟩ := tdiv_tmod_of_law nonzero law small sign
      rw [quotient, ← Bool.not_eq_true, fitsWord_iff]
      omega
    rw [s.divide_overflows outside]
    exact ⟨rfl, saturatedQuotient_eq a b⟩

/-! ### O50: the watchdog's ports -/

/-- A protocol write of `WTCSR`: `OVF` can only be cleared, bits 4:3 read 1 (R483). -/
theorem wtcsr_written (old v : Byte) :
    withBit (v ||| 0x18) 7 (old.getLsbD 7 && v.getLsbD 7) = (v &&& 0x7F) ||| 0x18 ||| (v &&& old &&& 0x80) := by
  have flag : withBit (v ||| 0x18) 7 (old.getLsbD 7 && v.getLsbD 7) = clearOnly old (v ||| 0x18) 7 := by simp [clearOnly]
  rw [flag, clearOnly_eq]
  ext i hi
  interval_cases i <;> simp

/-- A protocol write of `WTCSR` and what it does to the count (R483, R488). -/
theorem Wdt.writeControl_eq (w : Wdt) (v : Byte) :
    w.writeControl v = { w with
      wtcsr := (v &&& 0x7F) ||| 0x18 ||| (v &&& w.wtcsr &&& 0x80)
      wtcnt := if v.getLsbD 5 then w.wtcnt else 0
      presc := if v.getLsbD 5 then w.presc else 0 } := by
  rw [Wdt.writeControl, wtcsr_written]
  cases v.getLsbD 5 <;> rfl

section Ports

variable {s : State} {v : Word}

/-- A word written to the counter's port (R482). -/
theorem memWrite_counterPort (map : AtDefaultMap s) (v : Word) :
    memWrite .core .word 0xFFFFFE80 v s = .ok { s with wdt := s.wdt.writeCounterPort v } :=
  memWrite_wdtPorts (off := 0x80) map (by decide) (by decide) (by decide) v

/-- A word written to the reset port (R487). -/
theorem memWrite_resetPort (map : AtDefaultMap s) (v : Word) :
    memWrite .core .word 0xFFFFFE82 v s = .ok { s with wdt := s.wdt.writeResetPort v } :=
  memWrite_wdtPorts (off := 0x82) map (by decide) (by decide) (by decide) v

theorem Wdt.writeCounterPort_control (w : Wdt) (key : v.extractLsb' 8 8 = 0xA5#8) :
    w.writeCounterPort v = w.writeControl (v.setWidth 8) := by
  rw [Wdt.writeCounterPort, if_pos key, BitVec.setWidth_eq_extractLsb' (by decide)]

theorem Wdt.writeCounterPort_count (w : Wdt) (key : v.extractLsb' 8 8 = 0x5A#8) :
    w.writeCounterPort v = { w with wtcnt := v.setWidth 8 } := by
  rw [Wdt.writeCounterPort, key, if_neg (by decide), if_pos rfl, BitVec.setWidth_eq_extractLsb' (by decide)]

theorem Wdt.writeCounterPort_other (w : Wdt) (control : v.extractLsb' 8 8 ≠ 0xA5#8) (count : v.extractLsb' 8 8 ≠ 0x5A#8) :
    w.writeCounterPort v = w := by
  rw [Wdt.writeCounterPort, if_neg control, if_neg count]

theorem Wdt.writeResetPort_clear (w : Wdt) (key : v.extractLsb' 8 8 = 0xA5#8) (clear : v.getLsbD 7 = false) :
    w.writeResetPort v = { w with rstcsr := w.rstcsr &&& 0x7F } := by
  rw [Wdt.writeResetPort, if_pos ⟨key, clear⟩]; rfl

theorem Wdt.writeResetPort_store (w : Wdt) (key : v.extractLsb' 8 8 = 0x5A#8) :
    w.writeResetPort v = { w with rstcsr := (w.rstcsr &&& 0x80) ||| (v.setWidth 8 &&& 0x60) ||| 0x1F } := by
  rw [Wdt.writeResetPort, key, if_neg (by simp), if_pos rfl, BitVec.setWidth_eq_extractLsb' (by decide)]

theorem Wdt.writeResetPort_other (w : Wdt)
    (h : (v.extractLsb' 8 8 = 0xA5#8 ∧ v.getLsbD 7 = true) ∨
      (v.extractLsb' 8 8 ≠ 0xA5#8 ∧ v.extractLsb' 8 8 ≠ 0x5A#8)) :
    w.writeResetPort v = w := by
  rw [Wdt.writeResetPort]
  rcases h with ⟨key, set⟩ | ⟨clear, store⟩
  · rw [key, set, if_neg (by simp), if_neg (by decide)]
  · rw [if_neg (fun h => clear h.1), if_neg store]

end Ports

/-- Settles O50: each write is one of a port, by the key in its upper byte; each read is one of a register of the map. -/
theorem watchdogWriteProtocol : Obligations.WatchdogWriteProtocol := by
  intro s v low map rfl
  have bit7 : (v.setWidth 8).getLsbD 7 = v.getLsbD 7 := by simp
  refine ⟨fun key => ?control, fun key => ?count, fun control count => ?counterOther,
    memWrite_wdtPorts (off := 0x80) map (by decide) (by decide) (by decide) v,
    memWrite_wdtPorts (off := 0x81) map (by decide) (by decide) (by decide) v,
    memWrite_wdtPorts (off := 0x80) map (by decide) (by decide) (by decide) v, fun key clear => ?clear, fun key => ?store,
    fun h => ?resetOther, memRead_register (r := .wtcsr) map (by decide), memRead_register (r := .wtcnt) map (by decide),
    memRead_register (r := .rstcsr) map (by decide)⟩
  case control =>
    rw [memWrite_counterPort map, s.wdt.writeCounterPort_control key, Wdt.writeControl_eq]
    exact ⟨_, rfl, rfl, rfl, rfl, fun running => ⟨if_pos running, if_pos running⟩,
      fun stopped => ⟨if_neg (ne_true_of_eq_false stopped), if_neg (ne_true_of_eq_false stopped)⟩⟩
  case count => rw [memWrite_counterPort map, s.wdt.writeCounterPort_count key]
  case counterOther => rw [memWrite_counterPort map, s.wdt.writeCounterPort_other control count]
  case clear => rw [memWrite_resetPort map, s.wdt.writeResetPort_clear key (bit7.symm.trans clear)]
  case store => rw [memWrite_resetPort map, s.wdt.writeResetPort_store key]
  case resetOther =>
    rw [bit7] at h
    rw [memWrite_resetPort map, s.wdt.writeResetPort_other h]

end Sys2Proof.Machine
end

section
/-! PROOFS. O35, O37 and O45: the interrupt controller's registers (60_exceptions R440 to R452). A write to the system registers
sets the node's mask or lowers one source; levels, vectors and validity are fields of the controller's registers. -/

namespace Sys2Proof.Machine

/-! ### The system registers -/

/-- The system registers on the default map, by a direct or a cache-through address (R74). -/
theorem decodeAddress_system {p : Params} (map : p.layout = Config.defaultLayout) {a : Word} {off : Nat}
    (table : a.toNat / 2 ^ 29 ≤ 1) (place : a.toNat % 2 ^ 28 = 0x4000 + off) (within : off < 0x100) {sz : Size}
    (short : sz ≠ .long) (ag : Agent) (kind : AccessKind) : decodeAddress p ag a sz kind = .region .system off := by
  have holds : (⟨.system, 0x4000, 0x100, [.byte, .word], [.byte, .word]⟩ : RegionRow).holds (a.toNat % 2 ^ 28) = true := by
    rw [RegionRow.holds_iff, place]
    simp only []
    omega
  have size : sz ∈ [Size.byte, Size.word] := by cases sz <;> simp at short ⊢
  rw [decodeAddress_default map table (by simp [regionTable_default map]) holds, ite_self, if_pos size, place]
  simp

/-- A write of the mask register (R443). -/
theorem memWrite_mask {s : State} {ag : Agent} {sz : Size} {a : Word} {off : Nat} (al : a.toNat % sz.bytes = 0)
    (place : decodeAddress s.params ag a sz .write = .region .system off) (mask : reachesMask off sz = true) (v : Word) :
    ∃ t, memWrite ag sz a v s = .ok t ∧ t = { s with intc := { s.intc with mask := v.setWidth 4 }, stale := t.stale } ∧
      (s.params.cacheModel = .transparent → t.stale = s.stale) := by
  refine ⟨_, memWrite_region al place v, ?_, fun transparent => ?_⟩
  · simp only [State.regionWrite, State.systemWrite, if_pos mask]
    rw [State.keepEarlier_frame]
  · simp only [State.regionWrite, State.systemWrite, if_pos mask, State.keepEarlier_transparent transparent]

/-- The low four bits of a read of the mask register, whatever is drawn above them (R443). -/
theorem maskBits_read (drawn : Word) (mask : BitVec 4) :
    ((drawn &&& ~~~(0xF : Word)) ||| ((mask.setWidth 8).setWidth 4).setWidth 32).setWidth 4 = mask := by
  have apart : (~~~(0xF : Word)).setWidth 4 = 0#4 := by decide
  have width : (((mask.setWidth 8).setWidth 4).setWidth 32).setWidth 4 = mask := by revert mask; decide
  rw [BitVec.setWidth_or, BitVec.setWidth_and, apart, width, BitVec.and_zero, BitVec.zero_or]

/-- A read of the mask register that sees the store itself finds the four bits (R443). -/
theorem memRead_mask {s : State} {ag : Agent} {sz : Size} {a : Word} {off : Nat} (al : a.toNat % sz.bytes = 0)
    (place : decodeAddress s.params ag a sz .read = .region .system off) (mask : reachesMask off sz = true)
    (latest : seesEarlier s.params ag a = false) :
    ∃ w t, memRead ag sz a s = .ok (w, t) ∧ w.setWidth 4 = s.intc.mask := by
  refine ⟨_, _, memRead_region al place, ?_⟩
  rw [latest]
  simp only [State.regionValue, mask, State.seenMask, State.pick_latest s (.inl rfl), State.maskByte]
  exact maskBits_read _ _

/-- The five clear registers: where a word or a byte at their address reaches them, and whose source they lower (R446). -/
def clearRegisters : List (Word × BoardSource) :=
  [(0x4014, .vres), (0x4016, .vint), (0x4018, .hint), (0x401A, .cmd), (0x401C, .pwm)]

/-- A write of a clear register lowers its source where the core makes it, and changes nothing where a channel does (R446). -/
theorem memWrite_clearRegister {s : State} (map : AtDefaultMap s) {row : Word × BoardSource} (listed : row ∈ clearRegisters)
    {sz : Size} (short : sz ≠ .long) (ag : Agent) (v : Word) :
    memWrite ag sz row.1 v s = .ok (if ag = .core then s.setPending (.board row.2) false else s) := by
  have rows : ∀ row ∈ clearRegisters, row.1.toNat % 2 = 0 ∧ row.1.toNat / 2 ^ 29 ≤ 1 ∧
      row.1.toNat % 2 ^ 28 = 0x4000 + (row.1.toNat - 0x4000) ∧ row.1.toNat - 0x4000 < 0x100 ∧
      1 < row.1.toNat - 0x4000 ∧ clearTarget (row.1.toNat - 0x4000) = some row.2 := by decide
  obtain ⟨even, table, place, within, apart, target⟩ := rows row listed
  have al : row.1.toNat % sz.bytes = 0 := by cases sz <;> simp [Size.bytes] at short ⊢ <;> omega
  have mask : reachesMask (row.1.toNat - 0x4000) sz = false := by simp [reachesMask]; omega
  rw [memWrite_region al (decodeAddress_system map table place within short ag .write)]
  simp only [State.regionWrite, State.systemWrite, mask, target]
  rfl

/-- Settles O45: every access is one of the system registers, at the offset of its register. -/
theorem interruptMaskAndClearRegisters : Obligations.InterruptMaskAndClearRegisters := by
  intro s v map
  have place {a : Word} {off : Nat} {sz : Size} (there : a.toNat / 2 ^ 29 ≤ 1 ∧ a.toNat % 2 ^ 28 = 0x4000 + off)
      (fits : off < 0x100 ∧ sz ≠ .long) (kind : AccessKind) :
      decodeAddress s.params .core a sz kind = .region .system off :=
    decodeAddress_system map there.1 there.2 fits.1 fits.2 .core kind
  have around {a : Word} (through : aliasBits a ≠ 0b000#3) : seesEarlier s.params .core a = false := by
    rw [seesEarlier, decide_eq_false through, Bool.and_false]
  refine ⟨memWrite_mask (by decide) (place (off := 0) (by decide) (by decide) _) rfl v,
    memWrite_mask (by decide) (place (off := 1) (by decide) (by decide) _) rfl v,
    memRead_mask (by decide) (place (off := 0) (by decide) (by decide) _) rfl (around (by decide)),
    memRead_mask (by decide) (place (off := 1) (by decide) (by decide) _) rfl (around (by decide)),
    fun transparent => ⟨?word, ?byte⟩,
    fun row listed => ⟨memWrite_clearRegister map listed (by decide) .core v,
      memWrite_clearRegister map listed (by decide) .core v,
      fun c => memWrite_clearRegister map listed (by decide) (.dmac c) v⟩⟩
  case word =>
    exact memRead_mask (by decide) (place (off := 0) (by decide) (by decide) _) rfl (seesEarlier_transparent transparent _ _)
  case byte =>
    exact memRead_mask (by decide) (place (off := 1) (by decide) (by decide) _) rfl (seesEarlier_transparent transparent _ _)

/-! ### O35: two sources pending -/

/-- The triggered sources while nothing but VINT and PWM can be pending and both are unmasked (R440, R444). -/
theorem Intc.triggeredSources_vint_pwm {i : Intc} {vint : Bool}
    (pending : i.pending = { Pending.none with vint := vint, pwm := true }) (mask : i.mask = 0b1001#4) :
    i.triggeredSources = (if vint then [.board .vint] else []) ++ [.board .pwm] := by
  have only : ∀ src ∈ allSources,
      i.triggered src = (decide (src = .board .vint) && vint || decide (src = .board .pwm)) := by
    simp [allSources, Intc.triggered, Intc.valid, pending, mask, Pending.get, Pending.none]
  rw [Intc.triggeredSources, List.filter_congr only]
  cases vint <;> rfl

/-- Settles O35: the triggered sources before and after the clear, from which level, source and vector are read off. -/
theorem vintBeforePwmUntilCleared : Obligations.VintBeforePwmUntilCleared := by
  intro s t v map pending mask write
  have cleared : t = s.setPending (.board .vint) false := by
    have answer := memWrite_clearRegister map (row := (0x4016, .vint)) (by decide) (sz := .word) (by decide) .core v
    exact Except.ok.inj (write.symm.trans answer)
  have before := Intc.triggeredSources_vint_pwm pending mask
  have lowered : t.intc.pending = { Pending.none with vint := false, pwm := true } := by
    rw [cleared, State.setPending, pending]
    rfl
  have after := Intc.triggeredSources_vint_pwm lowered (cleared ▸ mask)
  simp only [Intc.currentLevel, Intc.sourcesAt, before, after]
  exact ⟨rfl, rfl, rfl, rfl, rfl, rfl⟩

/-! ### O37: levels, vectors and validity -/

/-- A field of a register as a number. -/
theorem toNat_field {w : Nat} (v : BitVec w) (start len : Nat) :
    (v.extractLsb' start len).toNat = v.toNat / 2 ^ start % 2 ^ len := by
  rw [BitVec.extractLsb'_toNat, Nat.shiftRight_eq_div_pow]

/-- A field of `IPRA` after a write of `v` (R450). -/
theorem ipra_written_field (v : Word) {start : Nat} (h : start ∈ [4, 8, 12]) :
    ((v.setWidth 16 &&& 0xFFF0 : Half).extractLsb' start 4).toNat = v.toNat / 2 ^ start % 16 := by
  have field : (v.setWidth 16 &&& 0xFFF0 : Half).extractLsb' start 4 = v.extractLsb' start 4 := by
    simp only [List.mem_cons, List.not_mem_nil, or_false] at h
    ext i hi
    rcases h with rfl | rfl | rfl <;> interval_cases i <;> simp
  rw [field]
  exact toNat_field v start 4

/-- Settles O37: each level, vector and validity is a field of its register; a write changes the field alone. -/
theorem vectorsAndValidity : Obligations.VectorsAndValidity := by
  intro s
  refine ⟨⟨rfl, rfl, rfl, rfl, rfl, rfl⟩, rfl, rfl, rfl, rfl, rfl, rfl, ?dmac0, ?dmac1, ?wdt, ?divu, ?board, ?validDivu,
    fun _ => ?validDmac, ?validWdt, fun src => ?triggered, fun map v t write => ?ipra, fun map v t write => ?mask⟩
  case dmac0 | dmac1 | divu =>
    refine (toNat_field _ 0 _).trans ?_
    rw [Nat.pow_zero, Nat.div_one]
    rfl
  case wdt => exact toNat_field _ _ _
  case board => intro b; cases b <;> simp [Intc.valid]
  case validDivu | validDmac | validWdt => exact decide_eq_true_iff.trans (by rw [Intc.level, toNat_field]; rfl)
  case triggered => rw [Intc.triggered, Bool.and_eq_true]
  case ipra =>
    rw [memWrite_register (r := .ipra) map (by decide)] at write
    cases write
    exact ⟨ipra_written_field v (by decide), ipra_written_field v (by decide), ipra_written_field v (by decide),
      ipra_written_field v (by decide), rfl⟩
  case mask =>
    obtain ⟨u, answer, written, -⟩ := memWrite_mask (a := 0x4000) (sz := .word) (by decide)
      (decodeAddress_system (off := 0) map (by decide) (by decide) (by decide) (by decide) .core .write) rfl v
    obtain rfl : u = t := Except.ok.inj (answer.symm.trans write)
    rw [written]
    exact ⟨rfl, rfl⟩

end Sys2Proof.Machine
end

section
/-! PROOFS. O52 and O53: the DMA controller (60_exceptions R455 to R468). A unit is its read, its write and the step of its
registers; what the last does is one equation. A transfer of words is an induction over its units. -/

namespace Sys2Proof.Machine

/-! ### The fields of `CHCR` -/

/-- A field of a register by its number. -/
theorem field_eq_iff {w : Nat} (v : BitVec w) (start len k : Nat) (h : k < 2 ^ len) :
    v.extractLsb' start len = BitVec.ofNat len k ↔ v.toNat / 2 ^ start % 2 ^ len = k := by
  rw [← BitVec.toNat_inj, toNat_field, BitVec.toNat_ofNat, Nat.mod_eq_of_lt h]

theorem DmaChannel.unitSize_eq (d : DmaChannel) :
    d.unitSize =
      if d.chcr.toNat / 2 ^ 10 % 4 = 0 then .byte else if d.chcr.toNat / 2 ^ 10 % 4 = 1 then .word else .long := by
  rw [DmaChannel.unitSize]
  exact if_congr (field_eq_iff d.chcr 10 2 0 (by decide)) rfl (if_congr (field_eq_iff d.chcr 10 2 1 (by decide)) rfl rfl)

theorem DmaChannel.unitCount_eq (d : DmaChannel) : d.unitCount = if d.chcr.toNat / 2 ^ 10 % 4 = 3 then 4 else 1 := by
  rw [DmaChannel.unitCount]
  exact if_congr (field_eq_iff d.chcr 10 2 3 (by decide)) rfl rfl

/-- The step of an address by its mode; of a reserved mode nothing is said (R458). -/
def addressStep (sz : Size) (mode : BitVec 2) : Word :=
  if mode = 0 then 0 else if mode = 1 then BitVec.ofNat 32 sz.bytes else 0 - BitVec.ofNat 32 sz.bytes

theorem modeDelta_reserved (sz : Size) : modeDelta 3 sz = none := rfl

theorem modeDelta_eq {mode : BitVec 2} (h : mode ≠ 3) (sz : Size) : modeDelta mode sz = some (addressStep sz mode) := by
  have modes : mode = 0 ∨ mode = 1 ∨ mode = 2 := by revert mode; decide
  rcases modes with rfl | rfl | rfl <;> rfl

/-- The active condition, bit by bit (R462). -/
theorem State.dmaActive_iff (s : State) (c : Channel) :
    s.dmaActive c = true ↔
      ((s.chan c).chcr.getLsbD 0 = true ∧ s.dmaor.getLsbD 0 = true ∧ (s.chan c).chcr.getLsbD 1 = false ∧
        s.dmaor.getLsbD 1 = false ∧ s.dmaor.getLsbD 2 = false ∧
        ((s.chan c).chcr.getLsbD 9 = true ∨
          ((s.chan c).drcr.extractLsb' 0 2 = 0 ∧ (s.chan c).extTrigger = true))) := by
  simp only [State.dmaActive, DmaChannel.request, Bool.and_eq_true, Bool.or_eq_true, Bool.not_eq_true', beq_iff_eq,
    and_assoc]

/-! ### One unit -/

/-- The last part of a unit: the registers step, and on count 0 the channel completes (R463, R464). -/
def State.finishUnit (s : State) (c : Channel) (ds dd : Word) : State :=
  let s3 := s.setChan c ((s.chan c).stepped s.params ds dd)
  if (s3.chan c).tcr = 0 then s3.dmaComplete c else s3

section Unit

variable {s s1 s2 : State} {c : Channel} {v ds dd : Word} {f : Fault}

theorem dmaUnit_readFault (source : modeDelta (s.chan c).sourceMode (s.chan c).unitSize = some ds)
    (dest : modeDelta (s.chan c).destMode (s.chan c).unitSize = some dd)
    (read : memRead (.dmac c) (s.chan c).unitSize (s.chan c).sar s = .error f) : dmaUnit c s = .error f := by
  simp only [dmaUnit, source, dest, read]

theorem dmaUnit_writeFault (source : modeDelta (s.chan c).sourceMode (s.chan c).unitSize = some ds)
    (dest : modeDelta (s.chan c).destMode (s.chan c).unitSize = some dd)
    (read : memRead (.dmac c) (s.chan c).unitSize (s.chan c).sar s = .ok (v, s1))
    (write : memWrite (.dmac c) (s.chan c).unitSize (s.chan c).dar v s1 = .error f) : dmaUnit c s = .error f := by
  simp only [dmaUnit, source, dest, read, write]

theorem dmaUnit_answered (source : modeDelta (s.chan c).sourceMode (s.chan c).unitSize = some ds)
    (dest : modeDelta (s.chan c).destMode (s.chan c).unitSize = some dd)
    (read : memRead (.dmac c) (s.chan c).unitSize (s.chan c).sar s = .ok (v, s1))
    (write : memWrite (.dmac c) (s.chan c).unitSize (s.chan c).dar v s1 = .ok s2) :
    dmaUnit c s = .ok (s2.finishUnit c ds dd) := by
  simp only [dmaUnit, source, dest, read, write, State.finishUnit]

end Unit

/-- The channel's registers after a unit (R463, R464). -/
def DmaChannel.afterUnit (d : DmaChannel) (p : Params) (ds dd : Word) : DmaChannel :=
  let tcr := (d.tcr - 1) &&& tcrMask p
  { d with sar := d.sar + ds, dar := d.dar + dd, tcr := tcr, chcr := if tcr = 0 then d.chcr ||| 2 else d.chcr }

/-- Does a unit complete its channel with the interrupt enabled (R464)? -/
def DmaChannel.raises (d : DmaChannel) (p : Params) : Bool :=
  if (d.tcr - 1) &&& tcrMask p = 0 then d.chcr.getLsbD 2 else false

/-- The channel's interrupt raised under a condition. -/
def State.raiseIf (s : State) (c : Channel) (b : Bool) : State := if b then s.setPending (.dmac c) true else s

/-- What the last part of a unit does: its own channel's registers, and perhaps its own pending bit (R463, R464). -/
theorem State.finishUnit_eq (s : State) (c : Channel) (ds dd : Word) :
    s.finishUnit c ds dd =
      (s.raiseIf c ((s.chan c).raises s.params)).setChan c ((s.chan c).afterUnit s.params ds dd) := by
  have stepped : (s.chan c).stepped s.params ds dd =
      { s.chan c with sar := (s.chan c).sar + ds, dar := (s.chan c).dar + dd,
                      tcr := ((s.chan c).tcr - 1) &&& tcrMask s.params } := rfl
  simp only [State.finishUnit, State.chan_setChan_self, stepped, DmaChannel.afterUnit, DmaChannel.raises, State.dmaComplete]
  split
  · cases (s.chan c).chcr.getLsbD 2 <;> cases c <;> rfl
  · rfl

/-- A channel reaches no on-chip register (R78). -/
theorem decodeAddress_dmac_ne_onChip (p : Params) (c : Channel) (a : Word) (sz : Size) (kind : AccessKind) (off : Nat) :
    decodeAddress p (.dmac c) a sz kind ≠ .onChip off := by
  unfold decodeAddress
  split
  · exact nofun
  · exact decodeRegion_ne_onChip p a sz kind off

/-- A channel's write of the system registers changes the mask at most (R443, R446; log 14). -/
theorem State.systemWrite_dmac_pending (s : State) (c : Channel) (f : Bool) (sz : Size) (off : Nat) (v : Word) :
    (s.systemWrite (.dmac c) f sz off v).intc.pending = s.intc.pending := by
  unfold State.systemWrite
  split
  · rw [State.keepEarlier_frame]
  · split <;> rfl

/-- A channel's write changes no pending bit (R446; log 14). -/
theorem memWrite_dmac_pending {c : Channel} {sz : Size} {a v : Word} {s t : State}
    (h : memWrite (.dmac c) sz a v s = .ok t) : t.intc.pending = s.intc.pending := by
  have offChip := decodeAddress_dmac_ne_onChip s.params c a sz .write
  obtain ⟨-, rfl | ⟨-, rfl⟩ | ⟨off, place, -⟩ | ⟨off, -, place, -⟩ | ⟨off, place, -⟩ | ⟨off, -, rfl⟩ |
    ⟨r, off, -, -, rfl⟩⟩ := memWrite_cases h
  · rfl
  · rw [State.purgeWrite_frame]
  · exact absurd place (offChip off)
  · exact absurd place (offChip off)
  · exact absurd place (offChip off)
  · exact s.systemWrite_dmac_pending c _ sz off v
  · rw [State.storeCells_eq]; rfl

/-- What the read and the write of a unit leave: every register, and every pending bit (R463). -/
theorem unit_accesses_frame {c : Channel} {sz : Size} {a b v : Word} {s s1 s2 : State}
    (read : memRead (.dmac c) sz a s = .ok (v, s1)) (write : memWrite (.dmac c) sz b v s1 = .ok s2) :
    s2 = { s with mem := s2.mem, stale := s2.stale, draws := s2.draws, intc := s2.intc } ∧
      s2.intc.pending = s.intc.pending := by
  have quiet := memRead_frame read
  constructor
  · rw [memWrite_dmac_frame write, quiet]
  · rw [memWrite_dmac_pending write, quiet]

theorem State.raiseIf_pending (s : State) (c : Channel) (b : Bool) :
    (s.raiseIf c b).intc.pending.get (.dmac c) = (b || s.intc.pending.get (.dmac c)) := by
  cases b with
  | false => rfl
  | true => exact Pending.get_put_self _ _ _

/-- Raising the interrupt changes the INTC alone (R442). -/
theorem State.raiseIf_frame (s : State) (c : Channel) (b : Bool) :
    s.raiseIf c b = { s with intc := (s.raiseIf c b).intc } := by
  cases b <;> rfl

theorem State.raiseIf_chan (s : State) (c k : Channel) (b : Bool) : (s.raiseIf c b).chan k = s.chan k := by
  rw [State.raiseIf_frame]; cases k <;> rfl

/-- New registers of a channel, and nothing else (R455). -/
theorem State.setChan_frame (s : State) (c : Channel) (d : DmaChannel) :
    s.setChan c d = { s with dma0 := (s.setChan c d).dma0, dma1 := (s.setChan c d).dma1 } := by
  cases c <;> rfl

/-- Settles O52: the turn, the faults and the answered unit, each by its lemma. -/
theorem activeChannelsMoveOneUnit : Obligations.ActiveChannelsMoveOneUnit := by
  refine ⟨fun s c => ⟨s.dmaActive_iff c, dmaMove_inactive, fun ts hts => ⟨?size, fun active => ?units⟩, toNat_field _ _ _,
    toNat_field _ _ _, rfl, fun k f fault => ?unitFault, fun k t answered => ?unitAnswered, fun reserved => ?source,
    fun valid reserved => ?dest, fun source dest => ⟨fun f fault => ?read, fun v s1 f read fault => ?write⟩⟩,
    fun s s1 s2 c other v different read write source dest => ?answered⟩
  case size => rw [hts]; exact (s.chan c).unitSize_eq
  case units => rw [dmaMove, if_pos active, DmaChannel.unitCount_eq, ← hts]
  case unitFault => rw [dmaUnits, fault]
  case unitAnswered => rw [dmaUnits, answered]
  case source => simp only [dmaUnit, reserved, modeDelta_reserved]
  case dest => simp only [dmaUnit, modeDelta_eq valid, reserved, modeDelta_reserved]
  case read => exact dmaUnit_readFault (modeDelta_eq source _) (modeDelta_eq dest _) fault
  case write => exact dmaUnit_writeFault (modeDelta_eq source _) (modeDelta_eq dest _) read fault
  case answered =>
    refine ⟨_, dmaUnit_answered (modeDelta_eq source _) (modeDelta_eq dest _) read write, ?_⟩
    obtain ⟨frame, pending⟩ := unit_accesses_frame read write
    have params : s2.params = s.params := by rw [frame]
    have chan : ∀ k, s2.chan k = s.chan k := fun k => by rw [frame]; cases k <;> rfl
    rw [State.finishUnit_eq, params, chan]
    have own := State.chan_setChan_self (s2.raiseIf c ((s.chan c).raises s.params)) c
      ((s.chan c).afterUnit s.params (addressStep (s.chan c).unitSize (s.chan c).sourceMode)
        (addressStep (s.chan c).unitSize (s.chan c).destMode))
    refine ⟨congrArg DmaChannel.sar own, congrArg DmaChannel.dar own, congrArg DmaChannel.tcr own,
      congrArg DmaChannel.chcr own, ?pending, ?others, ?mem, ?frame⟩
    case pending =>
      rw [State.setChan_intc, State.raiseIf_pending, pending]
      rfl
    case others => rw [State.chan_setChan_ne _ different, State.raiseIf_chan, chan]
    case mem => rw [State.setChan_mem, State.raiseIf_frame]
    case frame =>
      rw [State.setChan_frame, State.raiseIf_frame, frame]

end Sys2Proof.Machine
end

section
/-! PROOFS. O53: a transfer of four words in SDRAM (60_exceptions R462 to R468), by induction over its units: after `n` of them the
first `n` words stand at the destination, every other byte is as it was, and the channel's registers have stepped `n` times. -/

namespace Sys2Proof.Machine

/-! ### Eight bytes of SDRAM -/

/-- Four words of SDRAM at their own addresses of the default map (R74, R76). -/
structure FourWords (a : Word) : Prop where
  even : a.toNat % 2 = 0
  lo : 0x6000000 ≤ a.toNat
  hi : a.toNat + 8 ≤ 0x6040000

section FourWords

variable {a : Word} {k : Nat}

theorem FourWords.toNat_add (h : FourWords a) (hk : k ≤ 8) : (a + BitVec.ofNat 32 k).toNat = a.toNat + k := by
  have := h.hi
  rw [BitVec.toNat_add, BitVec.toNat_ofNat]
  omega

theorem FourWords.inSdram (h : FourWords a) (hk : k < 8) : InSdram (a + BitVec.ofNat 32 k) := by
  have place := h.toNat_add hk.le
  have lo := h.lo
  have hi := h.hi
  exact .of_direct (by omega) (by omega)

theorem FourWords.place (h : FourWords a) (hk : k < 8) : sdramPlace (a + BitVec.ofNat 32 k) = sdramPlace a + k := by
  have place := h.toNat_add hk.le
  have lo := h.lo
  have hi := h.hi
  rw [sdramPlace_direct (by omega), sdramPlace_direct (by omega)]
  omega

end FourWords

/-- A word is read back as the two bytes joined (R60, R62). -/
theorem beBytes_beValue_two (x y : Byte) : beBytes .word (beValue [x, y]) = [x, y] := by
  have high : (beValue [x, y]).extractLsb' 8 8 = x := by
    ext i hi
    have inWord : 8 + i < 32 ∧ i < 32 := by omega
    simp [beValue_two, inWord, hi]
  have low : (beValue [x, y]).extractLsb' 0 8 = y := by
    ext i hi
    have inWord : i < 32 := by omega
    simp [beValue_two, inWord, hi]
  rw [beBytes, high, low]

/-- Two bytes written one after the other. -/
theorem State.heldByte_storeCells_two {s : State} (hwf : CanonicalMemory s) (f : Bool) (k : Nat) (x y : Byte) (i : Nat) :
    (s.storeCells f (cellsAt k [x, y])).heldByte i =
      if i = k + 1 then some y else if i = k then some x else s.heldByte i := by
  rw [State.heldByte_storeCells, cellsAt, cellsAt, cellsAt, State.writeCells_cons,
    State.heldByte_writeCells_one (State.wf_writeCells hwf _), State.heldByte_writeCells_one hwf]

/-- A read around the cache of a word of SDRAM (R60, R62). -/
theorem memReadUncached_sdram_word {a : Word} {s : State} (map : AtDefaultMap s) (even : a.toNat % 2 = 0) (h : InSdram a) :
    memReadUncached .word a s = .ok (beValue [s.storeByte (sdramPlace a), s.storeByte (sdramPlace a + 1)], s) := by
  rw [memReadUncached, memReadVia, if_pos ((aligned_iff .word a).mpr even), h.decode map .core .word .read]
  simp only [State.regionValue, State.regionBytes_sdram]
  rfl

/-- So does a channel's read of a word of SDRAM (R60, R62, R98). -/
theorem memRead_sdram_word {c : Channel} {a : Word} {s : State} (map : AtDefaultMap s) (even : a.toNat % 2 = 0)
    (h : InSdram a) :
    memRead (.dmac c) .word a s = .ok (beValue [s.storeByte (sdramPlace a), s.storeByte (sdramPlace a + 1)], s) :=
  memRead_sdram_store map (by simp [seesEarlier]) even h

/-! ### What `n` units have done -/

/-- The first `n` words of `a` in `s` stand at `b` in `t`, and every other byte is as it was. -/
structure Copied (s : State) (a b : Word) (n : Nat) (t : State) : Prop where
  params : t.params = s.params
  epoch : t.epoch = s.epoch
  canonical : CanonicalMemory t
  bytes : ∀ x, t.heldByte x =
    if sdramPlace b ≤ x ∧ x < sdramPlace b + 2 * n then some (s.storeByte (sdramPlace a + (x - sdramPlace b)))
    else s.heldByte x

/-- After `n` units of the channel `c`, armed for four words from `a` to `b` with the control `ctl`: what is copied, the
registers stepped, and on the last unit the flag and the interrupt (R463, R464). -/
structure Transferred (s : State) (c : Channel) (ctl : Word) (a b : Word) (n : Nat) (t : State) : Prop where
  copied : Copied s a b n t
  dmaor : t.dmaor = 1
  sar : (t.chan c).sar = a + BitVec.ofNat 32 (2 * n)
  dar : (t.chan c).dar = b + BitVec.ofNat 32 (2 * n)
  tcr : (t.chan c).tcr = BitVec.ofNat 32 (4 - n)
  chcr : (t.chan c).chcr = if n = 4 then ctl ||| 2 else ctl
  pending : t.intc.pending.get (.dmac c) = ((decide (n = 4) && ctl.getLsbD 2) || s.intc.pending.get (.dmac c))

/-- The controls of R468: enabled, auto-request, words, both addresses incremented, not complete. -/
structure WordCopy (ctl : Word) : Prop where
  enabled : ctl.getLsbD 0 = true
  unfinished : ctl.getLsbD 1 = false
  auto : ctl.getLsbD 9 = true
  size : ctl.toNat / 2 ^ 10 % 4 = 1
  source : ctl.extractLsb' 12 2 = 1#2
  dest : ctl.extractLsb' 14 2 = 1#2

/-- A byte of the source reads in `t` as in `s`: nothing was copied over it. -/
theorem Copied.storeByte_source {s t : State} {a b : Word} {n : Nat} (h : Copied s a b n t) (n4 : n ≤ 4)
    (apart : sdramPlace a + 8 ≤ sdramPlace b ∨ sdramPlace b + 8 ≤ sdramPlace a) {k : Nat} (hk : k < 8) :
    t.storeByte (sdramPlace a + k) = s.storeByte (sdramPlace a + k) := by
  rw [State.storeByte, State.storeByte, h.epoch, h.bytes, if_neg (by omega)]

/-- A byte of the destination reads in `t` as its byte of the source in `s`. -/
theorem Copied.storeByte_dest {s t : State} {a b : Word} {n : Nat} (h : Copied s a b n t) {k : Nat} (hk : k < 2 * n) :
    t.storeByte (sdramPlace b + k) = s.storeByte (sdramPlace a + k) := by
  rw [State.storeByte, h.bytes, if_pos (by omega), Option.getD_some, Nat.add_sub_cancel_left]

/-- One more word copied. -/
theorem Copied.next {s t : State} {a b : Word} {n : Nat} (h : Copied s a b n t) (f : Bool) :
    Copied s a b (n + 1) (t.storeCells f (cellsAt (sdramPlace b + 2 * n)
      [s.storeByte (sdramPlace a + 2 * n), s.storeByte (sdramPlace a + (2 * n + 1))])) where
  params := by rw [State.storeCells_frame]; exact h.params
  epoch := by rw [State.storeCells_frame]; exact h.epoch
  canonical := by
    rw [CanonicalMemory, State.storeCells_eq]
    exact State.wf_writeCells h.canonical _
  bytes x := by
    rw [State.heldByte_storeCells_two h.canonical, h.bytes]
    by_cases second : x = sdramPlace b + 2 * n + 1
    · rw [if_pos second, if_pos (by omega), show x - sdramPlace b = 2 * n + 1 by omega]
    · rw [if_neg second]
      by_cases first : x = sdramPlace b + 2 * n
      · rw [if_pos first, if_pos (by omega), show x - sdramPlace b = 2 * n by omega]
      · rw [if_neg first]
        exact if_congr (by omega) rfl rfl

/-- What is copied does not depend on the registers. -/
theorem Copied.of_sameMemory {s t u : State} {a b : Word} {n : Nat} (h : Copied s a b n t) (params : u.params = t.params)
    (epoch : u.epoch = t.epoch) (mem : u.mem = t.mem) : Copied s a b n u where
  params := params.trans h.params
  epoch := epoch.trans h.epoch
  canonical := by rw [CanonicalMemory, mem]; exact h.canonical
  bytes x := by rw [State.heldByte, mem]; exact h.bytes x

/-- The count after one more unit: it stays in the range of either modulus (R457). -/
theorem tcr_counts (p : Params) {n : Nat} (h : n < 4) :
    (BitVec.ofNat 32 (4 - n) - 1) &&& tcrMask p = BitVec.ofNat 32 (4 - (n + 1)) := by
  unfold tcrMask
  cases p.tcrModulus <;> interval_cases n <;> rfl

/-- Only the last unit brings the count to 0. -/
theorem tcr_zero_iff {n : Nat} (h : n < 4) : BitVec.ofNat 32 (4 - (n + 1)) = (0 : Word) ↔ n + 1 = 4 := by
  interval_cases n <;> decide

section Transfer

variable {s t : State} {c : Channel} {ctl a b : Word} {n : Nat}

/-- The registers step; the last unit sets `TE` and, with `IE`, the pending bit (R463, R464). -/
theorem Transferred.finish (n4 : n < 4) (h : Transferred s c ctl a b n t) {t2 : State}
    (frame : t2 = { t with mem := t2.mem, stale := t2.stale }) (copied : Copied s a b (n + 1) t2) :
    Transferred s c ctl a b (n + 1) (t2.finishUnit c 2 2) := by
  have chan : t2.chan c = t.chan c := by rw [frame]; cases c <;> rfl
  have chcr : (t2.chan c).chcr = ctl := by rw [chan, h.chcr, if_neg n4.ne]
  have tcr : ((t2.chan c).tcr - 1) &&& tcrMask t2.params = BitVec.ofNat 32 (4 - (n + 1)) := by
    rw [chan, h.tcr, tcr_counts _ n4]
  have step : ∀ x : Word, x + BitVec.ofNat 32 (2 * n) + 2 = x + BitVec.ofNat 32 (2 * (n + 1)) := fun x => by bv_omega
  have pending : t2.intc.pending.get (.dmac c) = s.intc.pending.get (.dmac c) := by
    rw [frame, h.pending, decide_eq_false n4.ne]; rfl
  rw [State.finishUnit_eq]
  have own := State.chan_setChan_self (t2.raiseIf c ((t2.chan c).raises t2.params)) c ((t2.chan c).afterUnit t2.params 2 2)
  refine ⟨copied.of_sameMemory ?params ?epoch ?mem, ?dmaor, ?sar, ?dar, ?tcr, ?chcr, ?pending⟩
  case params => rw [State.setChan_params, State.raiseIf_frame]
  case epoch => rw [State.setChan_epoch, State.raiseIf_frame]
  case mem => rw [State.setChan_mem, State.raiseIf_frame]
  case dmaor => rw [State.setChan_dmaor, State.raiseIf_frame, frame]; exact h.dmaor
  case sar => rw [own, DmaChannel.afterUnit, chan, h.sar]; exact step a
  case dar => rw [own, DmaChannel.afterUnit, chan, h.dar]; exact step b
  case tcr => rw [own]; exact tcr
  case chcr =>
    rw [own]
    simp only [DmaChannel.afterUnit, tcr, tcr_zero_iff n4, chcr]
  case pending =>
    rw [State.setChan_intc, State.raiseIf_pending, pending]
    simp only [DmaChannel.raises, tcr, tcr_zero_iff n4, chcr]
    by_cases last : n + 1 = 4 <;> simp [last]

/-- One unit of the transfer: a word is read, written and counted (R463). -/
theorem Transferred.unit (map : AtDefaultMap s) (word : WordCopy ctl) (src : FourWords a) (dst : FourWords b)
    (apart : a.toNat + 8 ≤ b.toNat ∨ b.toNat + 8 ≤ a.toNat) (n4 : n < 4) (h : Transferred s c ctl a b n t) :
    ∃ t', dmaUnit c t = .ok t' ∧ Transferred s c ctl a b (n + 1) t' := by
  have chcr : (t.chan c).chcr = ctl := h.chcr.trans (if_neg n4.ne)
  have size : (t.chan c).unitSize = .word := by rw [DmaChannel.unitSize_eq, chcr, word.size]; rfl
  have source : modeDelta (t.chan c).sourceMode (t.chan c).unitSize = some 2 := by
    rw [size, DmaChannel.sourceMode, chcr, word.source]; rfl
  have dest : modeDelta (t.chan c).destMode (t.chan c).unitSize = some 2 := by
    rw [size, DmaChannel.destMode, chcr, word.dest]; rfl
  have mapT : AtDefaultMap t := (congrArg Params.layout h.copied.params).trans map
  have places : sdramPlace a + 8 ≤ sdramPlace b ∨ sdramPlace b + 8 ≤ sdramPlace a := by
    have := src.lo; have := src.hi; have := dst.lo; have := dst.hi
    rw [sdramPlace_direct (by omega), sdramPlace_direct (by omega)]; omega
  have read : memRead (.dmac c) (t.chan c).unitSize (t.chan c).sar t =
      .ok (beValue [s.storeByte (sdramPlace a + 2 * n), s.storeByte (sdramPlace a + (2 * n + 1))], t) := by
    have even : (a + BitVec.ofNat 32 (2 * n)).toNat % 2 = 0 := by
      have := src.even; rw [src.toNat_add (by omega)]; omega
    rw [size, h.sar, memRead_sdram_word mapT even (src.inSdram (by omega)), src.place (by omega), Nat.add_assoc,
      h.copied.storeByte_source n4.le places (by omega), h.copied.storeByte_source n4.le places (by omega)]
  have write : ∀ x y, memWrite (.dmac c) (t.chan c).unitSize (t.chan c).dar (beValue [x, y]) t =
      .ok (t.storeCells true (cellsAt (sdramPlace b + 2 * n) [x, y])) := by
    intro x y
    have al : (b + BitVec.ofNat 32 (2 * n)).toNat % Size.word.bytes = 0 := by
      have := dst.even; rw [dst.toNat_add (by omega)]; simp only [Size.bytes]; omega
    rw [size, h.dar, memWrite_sdram_store mapT al (dst.inSdram (by omega)), dst.place (by omega), beBytes_beValue_two]
    rfl
  exact ⟨_, dmaUnit_answered source dest read (write _ _), h.finish n4 (t.storeCells_frame _ _) (h.copied.next true)⟩

/-- The channel's turn, one unit a step, while the count is not 0 (R462, R463). -/
theorem Transferred.move (map : AtDefaultMap s) (one : s.params.dmaUnitsPerStep = 1) (word : WordCopy ctl)
    (src : FourWords a) (dst : FourWords b) (apart : a.toNat + 8 ≤ b.toNat ∨ b.toNat + 8 ≤ a.toNat) (n4 : n < 4)
    (h : Transferred s c ctl a b n t) : ∃ t', dmaMove c t = .ok t' ∧ Transferred s c ctl a b (n + 1) t' := by
  obtain ⟨t', unit, next⟩ := h.unit map word src dst apart n4
  have chcr : (t.chan c).chcr = ctl := h.chcr.trans (if_neg n4.ne)
  have active : t.dmaActive c = true := by
    rw [State.dmaActive_iff, chcr, h.dmaor]
    exact ⟨word.enabled, by decide, word.unfinished, by decide, by decide, .inl word.auto⟩
  have units : t.params.dmaUnitsPerStep.val * (t.chan c).unitCount = 1 := by
    rw [h.copied.params, one, DmaChannel.unitCount_eq, chcr, word.size]; rfl
  refine ⟨t', ?_, next⟩
  rw [dmaMove, if_pos active, units, dmaUnits, unit]
  exact ite_self _

end Transfer

/-- The control of R468, with the interrupt enabled or not, is one of a transfer of words. -/
theorem wordCopy_control (ie : Bool) : WordCopy (if ie then 0x5605 else 0x5601) := by
  cases ie <;> constructor <;> decide

/-- Settles O53: four units, each by the induction's step; then what is copied and what the registers hold. -/
theorem fourWordTransferCompletes : Obligations.FourWordTransferCompletes := by
  intro s c ie a b map canonical one dmaor chcr tcr sar dar evenA evenB loA hiA loB hiB apart
  have src : FourWords a := ⟨evenA, loA, hiA⟩
  have dst : FourWords b := ⟨evenB, loB, hiB⟩
  have word := wordCopy_control ie
  have start : Transferred s c (if ie then 0x5605 else 0x5601) a b 0 s := {
    copied := ⟨rfl, rfl, canonical, fun x => (if_neg (by omega)).symm⟩
    dmaor := dmaor
    sar := sar.trans (BitVec.add_zero a).symm
    dar := dar.trans (BitVec.add_zero b).symm
    tcr := tcr
    chcr := chcr
    pending := rfl }
  obtain ⟨t1, move1, h1⟩ := start.move map one word src dst apart (by decide)
  obtain ⟨t2, move2, h2⟩ := h1.move map one word src dst apart (by decide)
  obtain ⟨t3, move3, h3⟩ := h2.move map one word src dst apart (by decide)
  obtain ⟨t, move4, h⟩ := h3.move map one word src dst apart (by decide)
  refine ⟨t1, t2, t3, t, move1, move2, move3, move4, fun k k4 => ?words, fun x outside => ?others, h.sar, h.dar, h.tcr,
    ?complete, ?pending⟩
  case words =>
    have mapT : AtDefaultMap t := (congrArg Params.layout h.copied.params).trans map
    have evenB' : (b + BitVec.ofNat 32 (2 * k)).toNat % 2 = 0 := by rw [dst.toNat_add (by omega)]; omega
    have evenA' : (a + BitVec.ofNat 32 (2 * k)).toNat % 2 = 0 := by rw [src.toNat_add (by omega)]; omega
    rw [memReadUncached_sdram_word mapT evenB' (dst.inSdram (by omega)), dst.place (by omega), Nat.add_assoc,
      h.copied.storeByte_dest (by omega), h.copied.storeByte_dest (by omega),
      memReadUncached_sdram_word map evenA' (src.inSdram (by omega)), src.place (by omega), Nat.add_assoc]
    rfl
  case others =>
    rw [← sdramPlace_direct (by omega)] at outside
    rw [h.copied.bytes, if_neg (by omega)]
  case complete => rw [h.chcr]; cases ie <;> decide
  case pending => rw [h.pending]; cases ie <;> rfl

end Sys2Proof.Machine
end

section
/-! PROOFS. O55: the reset event (70_reset R500 to R502). The core and the controllers are as cleared, the bytes of each store are
kept or forgotten by its place, and the boot ROM reads after the reset as it did while `pc` and `R15` were read from it. -/

namespace Sys2Proof.Machine

/-! ### What a reset leaves in the registers and the stores -/

/-- `IMASK` is 15 whatever is drawn for `T`, `S`, `Q` and `M` (R501). -/
theorem drawnSr_imask (k : Nat) : (drawnSr k).extractLsb' 4 4 = 0xF := by
  have apart : (0x303 : Word).extractLsb' 4 4 = 0#4 := by decide
  rw [drawnSr, BitVec.extractLsb'_or, BitVec.extractLsb'_and, apart, BitVec.and_zero]
  decide

/-- The bytes of the stores that survive a reset are kept, all others are forgotten (R502). -/
theorem systemReset_heldByte {s t : State} (h : systemReset s = .ok t) (a : Nat) :
    t.heldByte a = if survivesReset a then s.heldByte a else unlistedByte a := by
  rw [systemReset_node h]
  exact s.heldByte_filter survivesReset a

/-- The frame buffer stays: it is not the node's (R502). -/
theorem systemReset_heldByte_frameBuffer {s t : State} (h : systemReset s = .ok t) {a : Nat}
    (lo : Config.frameBufferStore ≤ a) (hi : a < Config.sdramStore) : t.heldByte a = s.heldByte a :=
  (systemReset_heldByte h a).trans (if_pos (by simp [survivesReset, inFrameBuffer, lo, hi]))

/-- Nothing is held in SDRAM or in the on-chip storage (R502). -/
theorem systemReset_heldByte_sdram {s t : State} (h : systemReset s = .ok t) {a : Nat} (lo : Config.sdramStore ≤ a) :
    t.heldByte a = none := by
  have rom : inRom a = false := decide_eq_false (Nat.not_lt.mpr (Nat.le_trans (by decide) lo))
  have frame : inFrameBuffer a = false := by simp [inFrameBuffer, Nat.not_lt.mpr lo]
  rw [systemReset_heldByte h, unlistedByte, survivesReset, rom, frame]
  rfl

/-! ### Reads of the boot ROM -/

/-- Every byte of the ROM images has a value of its own (R75, R77). -/
theorem State.heldByte_rom (s : State) {a : Nat} (rom : a < Config.frameBufferStore) : ∃ b, s.heldByte a = some b := by
  rw [State.heldByte, unlistedByte, inRom, if_pos (decide_eq_true rom)]
  cases s.mem.get? a with
  | none => exact ⟨_, rfl⟩
  | some b => exact ⟨b, rfl⟩

/-- A byte of the boot ROM reads as it is held (R75). -/
theorem State.readByte_bootRom {s : State} {a : Nat} {b : Byte} (rom : a < Config.cartStore) (held : s.heldByte a = some b)
    (lane : Nat) : s.readByte false a lane = b := by
  have image : inCartPadding s.cartLength a = false := by simp [inCartPadding]; omega
  rw [State.readByte, image, State.pick_latest s (.inl rfl), held]
  rfl

theorem SameRom.atDefaultMap {s t : State} (h : SameRom s t) (map : AtDefaultMap s) : AtDefaultMap t := by
  obtain ⟨-, -, params⟩ := h
  exact (congrArg Params.layout params).trans map

theorem SameRom.cacheModel {s t : State} (h : SameRom s t) : t.params.cacheModel = s.params.cacheModel := by
  obtain ⟨-, -, params⟩ := h
  rw [params]

/-- Where the ROM images are the same, a read of the boot ROM finds the same bytes (R75). -/
theorem SameRom.regionBytes_bootRom {s t : State} (h : SameRom s t) (n : Nat) : ∀ {off lane : Nat},
    off + n ≤ Config.cartStore → t.regionBytes false .bootRom off lane n = s.regionBytes false .bootRom off lane n := by
  induction n with
  | zero => exact fun _ => rfl
  | succ n ih =>
    intro off lane within
    obtain ⟨bytes, -, -⟩ := h
    have place : Config.bootRomStore + off < Config.cartStore := by rw [Config.bootRomStore]; omega
    have rom : Config.bootRomStore + off < Config.frameBufferStore := place.trans (by decide)
    obtain ⟨b, held⟩ := s.heldByte_rom rom
    have first : t.readByte false (Config.bootRomStore + off) lane = s.readByte false (Config.bootRomStore + off) lane := by
      rw [State.readByte_bootRom place held, State.readByte_bootRom place ((bytes _ rom).trans held)]
    exact congrArg₂ List.cons first (ih (by omega))

/-- The boot ROM of either node, at its direct address (R74). -/
theorem decodeAddress_bootRom {p : Params} (map : p.layout = Config.defaultLayout) {a : Word} (h : a.toNat < 0x400)
    (ag : Agent) (sz : Size) : decodeAddress p ag a sz .read = .region .bootRom a.toNat := by
  have low : a.toNat % 2 ^ 28 = a.toNat := by omega
  have inside : a.toNat < 0 + if p.coreId = .master then 0x800 else 0x400 := by split <;> omega
  rw [decodeAddress_default map (row := ⟨.bootRom, 0, if p.coreId = .master then 0x800 else 0x400, anySize, []⟩) (by omega)
    (by simp [regionTable_default map]) (by rw [RegionRow.holds_iff, low]; exact ⟨Nat.zero_le _, inside⟩), low]
  exact if_pos (mem_anySize sz)

/-- With no cache state a read of the boot ROM joins its bytes and changes nothing (R60, R75). -/
theorem memRead_bootRom_eq {s : State} (map : AtDefaultMap s) (transparent : s.params.cacheModel = .transparent) {sz : Size}
    {a : Word} (al : a.toNat % sz.bytes = 0) (h : a.toNat < 0x400) (ag : Agent) :
    memRead ag sz a s = .ok (beValue (s.regionBytes false .bootRom a.toNat 0 sz.bytes), s) := by
  rw [memRead_region al (decodeAddress_bootRom map h ag sz), seesEarlier_transparent transparent]
  rfl

/-- A read of the boot ROM is answered alike wherever the ROM images are the same (R75). -/
theorem SameRom.memRead_bootRom {s t u : State} (rom : SameRom s t) (map : AtDefaultMap s)
    (transparent : s.params.cacheModel = .transparent) {ag : Agent} {sz : Size} {a v : Word} (lo : a.toNat < 0x400)
    (h : memRead ag sz a s = .ok (v, u)) : memRead ag sz a t = .ok (v, t) := by
  have al := (aligned_iff sz a).mp (memRead_aligned h)
  have within : a.toNat + sz.bytes ≤ Config.cartStore := by
    have size : sz.bytes ≤ 4 := by cases sz <;> decide
    rw [Config.cartStore]
    omega
  rw [memRead_bootRom_eq map transparent al lo] at h
  cases h
  rw [memRead_bootRom_eq (rom.atDefaultMap map) (rom.cacheModel.trans transparent) al lo, rom.regionBytes_bootRom _ within]

/-! ### The vectors of the reset -/

/-- After a reset `pc` and `R15` are the longwords at 0 and 4, read from the boot ROM that the reset kept (R501). -/
theorem systemReset_vectors {s t : State} (map : AtDefaultMap s) (transparent : s.params.cacheModel = .transparent)
    (h : systemReset s = .ok t) :
    memRead .core .long 0 t = .ok (t.pc, t) ∧ memRead .core .long 4 t = .ok (t.reg 15, t) := by
  obtain ⟨pc, sp, s1, s2, h1, h2, rfl⟩ := systemReset_ok h
  have first : SameRom s.clearForReset s1 := memRead_sameRom h1
  have second : SameRom s1 ({ s2 with pc := pc }.setReg 15 sp) := (memRead_sameRom h2).trans (.of_mem rfl rfl rfl)
  rw [State.reg_setReg_self]
  exact ⟨(first.trans second).memRead_bootRom map transparent (by decide) h1,
    second.memRead_bootRom (first.atDefaultMap map) (first.cacheModel.trans transparent) (by decide) h2⟩

/-! ### The reset event -/

/-- The answered event is a successful reset of the node with the rest of the schedule. -/
theorem systemReset_of_step {s t : State} {rest : List Event} (turn : s.schedule = .hostReset :: rest)
    (h : step s = .next t) : systemReset { s with schedule := rest } = .ok t := by
  rw [step_of_scheduled turn, agentMove] at h
  cases answer : systemReset { s with schedule := rest } with
  | error f => rw [answer] at h; cases h
  | ok u => rw [answer] at h; cases h; rfl

/-- Settles O55: the registers as cleared, the bytes by their places, `pc` and `R15` by the reads of the boot ROM. -/
theorem resetEventRestartsTheNode : Obligations.ResetEventRestartsTheNode := by
  intro s t rest turn _ answered
  have reset := systemReset_of_step turn answered
  have node := systemReset_node reset
  obtain ⟨rom, length, params⟩ := systemReset_sameRom reset
  exact ⟨congrArg State.vbr node, (congrArg State.imask node).trans (drawnSr_imask _),
    (systemReset_sameCpu reset).maskedSr (drawnSr_masked _), congrArg State.delaySlot node, congrArg State.run node,
    (congrArg State.intc node :), congrArg State.dmaor node, (congrArg State.dma0 node :), (congrArg State.dma1 node :),
    (congrArg State.divu node :), (congrArg State.wdt node :), congrArg State.sbycr node, congrArg State.ccr node,
    congrArg State.schedule node, params, length, rom,
    fun _ lo hi => systemReset_heldByte_frameBuffer reset lo hi, (congrArg State.fbBank node :),
    fun _ lo => systemReset_heldByte_sdram reset lo,
    fun map transparent => systemReset_vectors (s := { s with schedule := rest }) map transparent reset⟩

end Sys2Proof.Machine
end
